-- ==== Sys2Proof/Word.lean ====
section
/-! DEFINITION. The word types of the CORE (00_scope.md R6, R7; every value is an unsigned integer). -/

namespace Sys2Proof

/-- An 8-bit value: a V register, a timer, a memory cell, the field NN. -/
abbrev Byte := BitVec 8

/-- A 16-bit value: an instruction word, `I`, `pc`, a stack entry. -/
abbrev Word := BitVec 16

/-- A 4-bit value: the field N, a key code. -/
abbrev Nibble := BitVec 4

/-- A register index, the fields X and Y (30_encoding.md R302). -/
abbrev Reg := BitVec 4

/-- The 12-bit address field NNN (30_encoding.md R302). -/
abbrev Addr12 := BitVec 12

end Sys2Proof
end

