-- ==== Sys2Proof/Machine/Framebuffer.lean ====
section
/-! DEFINITION. The framebuffer FB[0..2047], a flat array of pixels that are 0 or 1 (10_state.md R108, R109). -/

namespace Sys2Proof.Machine

/-- FB_W and FB_H (00_scope.md R5). -/
abbrev fbWidth : Nat := 64
abbrev fbHeight : Nat := 32
/-- The number of pixels, 64 × 32. -/
abbrev fbSize : Nat := 2048

/-- The pixels in index order, `true` for 1 (on), with the proof that there are 2048 of them (log 11). -/
structure Framebuffer where
  pixels : List Bool
  size : pixels.length = fbSize
deriving DecidableEq, Repr

/-- All pixels 0. -/
def Framebuffer.blank : Framebuffer := ⟨List.replicate fbSize false, List.length_replicate⟩

/-- `FB[idx]`. -/
def Framebuffer.get (f : Framebuffer) (idx : Nat) : Bool := f.pixels.getD idx false

/-- `FB[idx] <- b`. -/
def Framebuffer.set (f : Framebuffer) (idx : Nat) (b : Bool) : Framebuffer :=
  ⟨f.pixels.set idx b, (List.length_set ..).trans f.size⟩

/-- The index of pixel (x, y) (R109). -/
def pixelIndex (x y : Nat) : Nat := y * fbWidth + x

end Sys2Proof.Machine
end

