-- ==== Sys2Proof/Config.lean ====
section
/-! DEFINITION. The implementation parameters of one CORE (00_scope.md R5) and the model's free value. -/

namespace Sys2Proof

/-- The instruction profile (00_scope.md R2): `minimal` is the 16 instructions the source documents,
`full` adds 18 more. -/
inductive Profile where
  | minimal
  | full
deriving DecidableEq, Repr

/-- The parameters that are fixed for the lifetime of one CORE instance (00_scope.md R5). Parameters with one
value only (MEM_SIZE, the register widths, FB_W, FB_H) are in the types and definitions of Machine/;
TIMER_HZ is the host's, the CORE does not depend on it. -/
structure Config where
  /-- `PROFILE` -/
  profile : Profile
  /-- `FONT_BASE`, 0x000 to 0x1B0 -/
  fontBase : Fin 0x1B1
  /-- `FONT_DATA`, 80 bytes -/
  fontData : Vector Byte 80
  /-- `SPRITE_XWRAP` -/
  spriteXwrap : Bool
  /-- `SHIFT_USES_VY` -/
  shiftUsesVy : Bool
  /-- `JUMP0_USES_VX` -/
  jump0UsesVx : Bool
deriving DecidableEq, Repr

/-- FREE VALUE (DESIGN CHOICE in its form, log 6). The n-th random byte that CXNN takes as input, "under no law"
(41_alu.md R464): it has no body, so nothing can be proved of any of its values. -/
opaque Config.randomByte : Nat → Byte

end Sys2Proof
end

