-- ==== Sys2Proof/Machine/Font.lean ====
section
/-! DEFINITION. The font, the parameters' defaults and the reset contents of memory (20_memory.md R205, R206;
00_scope.md R5). -/

namespace Sys2Proof

/-- The standard CHIP-8 hexadecimal font, 16 glyphs of 5 bytes, top row first (R206). The spec takes the bytes
from general knowledge (decision D11; log 8). -/
def standardFont : Vector Byte 80 :=
  #v[0xF0, 0x90, 0x90, 0x90, 0xF0,
     0x20, 0x60, 0x20, 0x20, 0x70,
     0xF0, 0x10, 0xF0, 0x80, 0xF0,
     0xF0, 0x10, 0xF0, 0x10, 0xF0,
     0x90, 0x90, 0xF0, 0x10, 0x10,
     0xF0, 0x80, 0xF0, 0x10, 0xF0,
     0xF0, 0x80, 0xF0, 0x90, 0xF0,
     0xF0, 0x10, 0x20, 0x40, 0x40,
     0xF0, 0x90, 0xF0, 0x90, 0xF0,
     0xF0, 0x90, 0xF0, 0x10, 0xF0,
     0xF0, 0x90, 0xF0, 0x90, 0x90,
     0xE0, 0x90, 0xE0, 0x90, 0xE0,
     0xF0, 0x80, 0x80, 0x80, 0xF0,
     0xE0, 0x90, 0x90, 0x90, 0xE0,
     0xF0, 0x80, 0xF0, 0x80, 0xF0,
     0xF0, 0x80, 0xF0, 0x80, 0x80]

/-- The parameters at their defaults (R5). -/
def Config.default : Config where
  profile := .minimal
  fontBase := 0
  fontData := standardFont
  spriteXwrap := false
  shiftUsesVy := false
  jump0UsesVx := false

/-- What a memory cell holds after reset: FONT_DATA at FONT_BASE to FONT_BASE + 79, and 0x00 elsewhere
(R205, 10_state.md R114). It is also what an address that memory does not list reads as (log 7). -/
def Config.resetByte (c : Config) (a : Nat) : Byte :=
  if h : c.fontBase.val ≤ a ∧ a < c.fontBase.val + 80 then
    c.fontData[a - c.fontBase.val]'(by omega)
  else 0x00#8

end Sys2Proof
end

