-- ==== Sys2Proof/Machine/Memory.lean ====
section
/-! DEFINITION. The memory array M (20_memory.md R200): the cells that differ from their reset contents, by
strictly rising address, so that equal memories are equal lists. -/

namespace Sys2Proof.Machine

/-- Addresses and their bytes, strictly rising, none equal to its reset contents (log 7). -/
abbrev Memory := List Host.Cell

/-- MEM_SIZE (00_scope.md R5, R200). -/
abbrev memSize : Nat := 4096

/-- The byte of cell `a`: an unlisted cell reads as its reset contents. -/
def Memory.get (c : Config) : Memory → Nat → Byte
  | [], a => c.resetByte a
  | (b, v) :: m, a => if b = a then v else Memory.get c m a

/-- The list without an entry for cell `a`. -/
def Memory.drop (a : Nat) : Memory → Memory
  | [] => []
  | (b, v) :: m => if b = a then Memory.drop a m else (b, v) :: Memory.drop a m

/-- The list with the entry `(a, v)` at its place. -/
def Memory.insert (a : Nat) (v : Byte) : Memory → Memory
  | [] => [(a, v)]
  | (b, w) :: m =>
    if a < b then (a, v) :: (b, w) :: m
    else if b = a then (a, v) :: m
    else (b, w) :: Memory.insert a v m

/-- Write `v` to cell `a`, keeping the canonical form: a byte equal to the reset contents is not listed. -/
def Memory.set (c : Config) (m : Memory) (a : Nat) (v : Byte) : Memory :=
  if v = c.resetByte a then Memory.drop a m else Memory.insert a v m

/-- The canonical form: strictly rising addresses, each a cell of M, none listed with its reset contents. -/
abbrev Memory.wf (c : Config) (m : Memory) : Prop :=
  m.Pairwise (fun p q => p.1 < q.1) ∧ ∀ p ∈ m, p.1 < memSize ∧ p.2 ≠ c.resetByte p.1

end Sys2Proof.Machine
end

