-- ==== Sys2Proof/Machine/State.lean ====
section
/-! DEFINITION. The state of the CORE (10_state.md R100 to R112), the four faults (60_exceptions.md R700) and the
state after reset (R114). -/

namespace Sys2Proof.Machine

/-- The architectural state, plain data. The fields from `v` to `mem` are the whole of R112; `cfg` holds the
parameters of the instance, which nothing changes (log 1); `redraw` is the report of the last step (log 5) and
`draws` the index of the next random byte (log 6), both the model's own. -/
structure State where
  /-- the parameters of this CORE (00_scope.md R5) -/
  cfg : Config
  /-- V0 to VF (R100, R101) -/
  v : Vector Byte 16
  /-- the address register I (R102) -/
  i : Word
  /-- the program counter (R103) -/
  pc : Word
  /-- SP, the number of entries the stack holds, 0 to 16 (R105) -/
  sp : Fin 17
  /-- Stack[0..15] (R104), stale entries kept (R106) -/
  stack : Vector Word 16
  /-- the delay timer DT (R107) -/
  dt : Byte
  /-- the sound timer ST (R107) -/
  st : Byte
  /-- FB[0..2047] (R108) -/
  fb : Framebuffer
  /-- KeyLatch (R110) -/
  key : Option Nibble
  /-- M[0..4095] (R111) -/
  mem : Memory
  /-- the redraw report of the last successful step (30_encoding.md R327): an output (R113) -/
  redraw : Bool
  /-- how many random bytes have been drawn (41_alu.md R464): the model's own -/
  draws : Nat
deriving DecidableEq, Repr

/-- The faults of a step: exactly four (R700), each precise, with no change of state (R705). All are safe: they
are the stops the spec gives the machine. -/
inductive Fault where
  /-- RET with an empty stack (R701). Safe: the spec's own fault. -/
  | stackUnderflow
  /-- CALL with a full stack (R702). Safe: the spec's own fault. -/
  | stackOverflow
  /-- the step, on a word that is no instruction of the profile (R703). Safe: the spec's own fault. -/
  | unimplementedOpcode (word : Word)
  /-- a fetch or a data access that reaches 4096 or above, with the lowest such address (R704). Safe: the spec's
  own fault. -/
  | memoryOutOfBounds (addr : Nat)
deriving DecidableEq, Repr

/-- Why the model has no meaning. No arm raises it: every instruction of the opcode map has its meaning. -/
inductive Refusal where
  /-- raised by a dispatch arm of an instruction without a meaning (none now). Safe: the model stops. -/
  | notModelled (mnemonic : String)
deriving DecidableEq, Repr

/-- The answer of a step or of an instruction. -/
abbrev Answer := Host.Outcome State Fault Refusal

/-- The power-on state of a CORE with parameters `c` (R114, 70_reset_and_hazards.md R801). -/
def State.powerOn (c : Config) : State where
  cfg := c
  v := Vector.replicate 16 0x00#8
  i := 0x0000#16
  pc := 0x0200#16
  sp := 0
  stack := Vector.replicate 16 0x0000#16
  dt := 0x00#8
  st := 0x00#8
  fb := Framebuffer.blank
  key := none
  mem := []
  redraw := false
  draws := 0

/-- The machine right after reset, with the parameters at their defaults (R5, R114, R800). -/
def State.reset : State := State.powerOn Config.default

end Sys2Proof.Machine
end

