-- ==== Sys2Proof/Machine/Ops.lean ====
section
/-! DEFINITION. The named operations over registers, stack, memory, timers and latch, each defined once, and the
delivery of a fault. -/

namespace Sys2Proof.Machine

/-! ### Delivering a fault -/

/-- `raise` (00_scope.md R8): the fault is the step's result and nothing more happens; no state is saved, no
mode changes, control goes nowhere (60_exceptions.md R705, R706). There is no return from a trap (R709). -/
def raise (f : Fault) : Answer := .fault f

/-! ### Plain field updates -/

def State.setI (s : State) (a : Word) : State := { s with i := a }
def State.setPc (s : State) (a : Word) : State := { s with pc := a }
def State.setDt (s : State) (b : Byte) : State := { s with dt := b }
def State.setSt (s : State) (b : Byte) : State := { s with st := b }
def State.setFb (s : State) (f : Framebuffer) : State := { s with fb := f }
def State.setKey (s : State) (k : Option Nibble) : State := { s with key := k }
def State.setMem (s : State) (m : Memory) : State := { s with mem := m }
def State.setRedraw (s : State) (b : Bool) : State := { s with redraw := b }
def State.setDraws (s : State) (n : Nat) : State := { s with draws := n }
def State.setProfile (s : State) (p : Profile) : State := { s with cfg := { s.cfg with profile := p } }

/-! ### General registers (10_state.md R100) -/

/-- `V[x]`; no register is hardwired. -/
def State.getV (s : State) (x : Reg) : Byte := s.v[x.toNat]'x.isLt

/-- `V[x] <- b`. -/
def State.setV (s : State) (x : Reg) (b : Byte) : State := { s with v := s.v.set x.toNat b x.isLt }

/-- The index of VF, the flag register (R101). -/
abbrev vf : Reg := 0xF#4

/-- V0 to VX, in order (42_index_memory.md R502). -/
def State.regsThrough (s : State) (x : Reg) : List Byte := s.v.toList.take (x.toNat + 1)

/-- `V[k], V[k+1], … <- bs`, ascending (42_index_memory.md R503). -/
def State.loadFrom (s : State) (k : Nat) : List Byte → State
  | [] => s
  | b :: bs => (s.setV (BitVec.ofNat 4 k) b).loadFrom (k + 1) bs

/-! ### Program counter (30_encoding.md R321) -/

/-- `pc <- pc + 2`, the sequential class. -/
def State.advance (s : State) : State := s.setPc (s.pc + 2#16)

/-- `pc <- pc + 4` when the condition holds and `pc <- pc + 2` when not, the skip class. -/
def State.skipIf (s : State) (c : Bool) : State := s.setPc (s.pc + if c then 4#16 else 2#16)

/-! ### Call stack (10_state.md R104 to R106) -/

/-- `Stack[SP] <- a; SP <- SP + 1`, or none when the stack is full. -/
def State.push (s : State) (a : Word) : Option State :=
  if h : s.sp.val < 16 then
    some { s with stack := s.stack.set s.sp.val a h, sp := ⟨s.sp.val + 1, by omega⟩ }
  else none

/-- `SP <- SP - 1` and the entry then at `Stack[SP]`, which is not cleared; none when the stack is empty. -/
def State.pop (s : State) : Option (Word × State) :=
  if h : 0 < s.sp.val then
    some (s.stack[s.sp.val - 1]'(by omega), { s with sp := ⟨s.sp.val - 1, by omega⟩ })
  else none

/-! ### Memory (20_memory.md) -/

/-- `M[a]`. -/
def State.byteAt (s : State) (a : Nat) : Byte := s.mem.get s.cfg a

/-- `M[a] <- b`; there is no cell at 4096 or above, and nothing to write. -/
def State.setByte (s : State) (a : Nat) (b : Byte) : State :=
  if a < memSize then s.setMem (s.mem.set s.cfg a b) else s

/-- `M[a], M[a+1], … <- bs`, ascending. -/
def State.setBytes (s : State) (a : Nat) : List Byte → State
  | [] => s
  | b :: bs => (s.setByte a b).setBytes (a + 1) bs

/-- The bytes of M from `a` on, `n` of them. -/
def State.bytesAt (s : State) (a n : Nat) : List Byte := (List.range n).map fun k => s.byteAt (a + k)

/-- The check of a whole range before anything is written (R212): it names the lowest address of the range that
is out of bounds. An empty range is not checked. -/
def checkRange (a n : Nat) : Except Fault Unit :=
  if 0 < n ∧ memSize ≤ a + n - 1 then .error (.memoryOutOfBounds (max a memSize)) else .ok ()

/-- `n` one-byte reads at `a`, `a + 1`, … after the check of the whole range (R203, R212). -/
def State.readRange (s : State) (a n : Nat) : Except Fault (List Byte) :=
  match checkRange a n with
  | .error f => .error f
  | .ok _ => .ok (s.bytesAt a n)

/-- One-byte writes of `bs` at `a`, `a + 1`, … after the check of the whole range (R204, R212). -/
def State.writeRange (s : State) (a : Nat) (bs : List Byte) : Except Fault State :=
  match checkRange a bs.length with
  | .error f => .error f
  | .ok _ => .ok (s.setBytes a bs)

/-- `MemRead(a, 1)` (R203). -/
def State.memRead (s : State) (a : Nat) : Except Fault Byte :=
  match checkRange a 1 with
  | .error f => .error f
  | .ok _ => .ok (s.byteAt a)

/-- `MemWrite(a, 1, b)` (R204). -/
def State.memWrite (s : State) (a : Nat) (b : Byte) : Except Fault State := s.writeRange a [b]

/-! ### Input latch and random input -/

/-- `ReadClearKey()` (10_state.md R110): the latch, which the read empties. -/
def State.readClearKey (s : State) : Option Nibble × State := (s.key, s.setKey none)

/-- `draw_8()` (41_alu.md R464): the next random byte, a free value, and the state that has drawn it (log 6). -/
def State.drawByte (s : State) : Byte × State := (Config.randomByte s.draws, s.setDraws (s.draws + 1))

/-- `redraw <- false`, the first action of a step (30_encoding.md R320). -/
def State.beginStep (s : State) : State := s.setRedraw false

end Sys2Proof.Machine
end

