-- ==== Sys2Proof/Machine/Operands.lean ====
section
/-! DEFINITION. Operand forms: what an instruction reads before it writes anything (30_encoding.md R302, R326). -/

namespace Sys2Proof.Machine

/-- `zext_16` of an address field (R302). -/
def zextAddr (nnn : Addr12) : Word := nnn.setWidth 16

/-- `zext_16` of a byte (00_scope.md R7). -/
def zextByte (b : Byte) : Word := b.setWidth 16

/-- `zext_8` of a key code (44_timers_input.md R603). -/
def zextKey (k : Nibble) : Byte := k.setWidth 8

/-- The source of a shift: VY when SHIFT_USES_VY, else VX (41_alu.md R461, R463). -/
def State.shiftSource (s : State) (x y : Reg) : Byte := if s.cfg.shiftUsesVy then s.getV y else s.getV x

/-- The base of JP V0, NNN: VX with X = w[11:8] when JUMP0_USES_VX, else V0 (40_control_flow.md R414). -/
def State.jump0Base (s : State) (nnn : Addr12) : Byte :=
  if s.cfg.jump0UsesVx then s.getV (nnn.extractLsb' 8 4) else s.getV 0x0#4

/-- The base of a data access: I as an integer, no wrap-around (42_index_memory.md R504, 20_memory.md R202). -/
def State.base (s : State) : Nat := s.i.toNat

/-- The address of the glyph of a hex digit: only the low nibble of the digit counts (42_index_memory.md R510). -/
def glyphAddr (c : Config) (b : Byte) : Nat := c.fontBase.val + 5 * (b &&& 0x0F#8).toNat

/-- The origin of a sprite, wrapped into the screen (43_display.md R552). -/
def State.spriteX (s : State) (x : Reg) : Nat := (s.getV x).toNat % 64
def State.spriteY (s : State) (y : Reg) : Nat := (s.getV y).toNat % 32

/-- A key matches when the latch holds one and its code equals the whole byte (44_timers_input.md R604). -/
def keyMatches (k : Option Nibble) (b : Byte) : Bool :=
  match k with
  | none => false
  | some c => zextKey c == b

/-- The decimal digits of a byte, hundreds first (42_index_memory.md R511). -/
def bcdDigits (b : Byte) : List Byte :=
  [BitVec.ofNat 8 (b.toNat / 100), BitVec.ofNat 8 (b.toNat / 10 % 10), BitVec.ofNat 8 (b.toNat % 10)]

end Sys2Proof.Machine
end

