-- ==== Sys2Proof/Machine/Flags.lean ====
section
/-! DEFINITION. The flag computations of the ALU (41_alu.md R456, R460 to R463, R470, R471). -/

namespace Sys2Proof.Machine

/-- The byte a flag is written as: 0x01 or 0x00. -/
def flagByte (b : Bool) : Byte := if b then 0x01#8 else 0x00#8

/-- The carry of an addition: the exact sum is above 255 (R456). -/
def carryOut (a b : Byte) : Bool := decide (255 < a.toNat + b.toNat)

/-- No borrow in `a - b`: `a ≥ b` (R460, R462). -/
def noBorrow (a b : Byte) : Bool := decide (b.toNat ≤ a.toNat)

/-- The bit a shift right by one moves out (R461). -/
def shiftedOutRight (b : Byte) : Bool := b.getLsbD 0

/-- The bit a shift left by one moves out (R463). -/
def shiftedOutLeft (b : Byte) : Bool := b.getLsbD 7

/-- The order of a flag-setting instruction: VF gets the flag, then V[X] the result, so that for X = F the result
stays (R471). -/
def State.setFlagThen (s : State) (flag : Bool) (x : Reg) (result : Byte) : State :=
  (s.setV vf (flagByte flag)).setV x result

end Sys2Proof.Machine
end

