-- ==== Sys2Proof/Machine/Alu.lean ====
section
/-! DEFINITION. Register and ALU instructions (41_alu.md). -/

namespace Sys2Proof.Machine

/-- 6XNN LD VX, NN (R450). -/
def execLdImm (x : Reg) (nn : Byte) (s : State) : Answer := .next (s.setV x nn).advance

/-- 7XNN ADD VX, NN (R451): VF is not written as a flag. -/
def execAddImm (x : Reg) (nn : Byte) (s : State) : Answer := .next (s.setV x (s.getV x + nn)).advance

/-- 8XY0 LD VX, VY (R452). -/
def execLdReg (x y : Reg) (s : State) : Answer := .next (s.setV x (s.getV y)).advance

/-- 8XY1 OR VX, VY (R453). -/
def execOrReg (x y : Reg) (s : State) : Answer := .next (s.setV x (s.getV x ||| s.getV y)).advance

/-- 8XY2 AND VX, VY (R454). -/
def execAndReg (x y : Reg) (s : State) : Answer := .next (s.setV x (s.getV x &&& s.getV y)).advance

/-- 8XY3 XOR VX, VY (R455). -/
def execXorReg (x y : Reg) (s : State) : Answer := .next (s.setV x (s.getV x ^^^ s.getV y)).advance

/-- 8XY4 ADD VX, VY with carry (R456). -/
def execAddReg (x y : Reg) (s : State) : Answer :=
  .next (s.setFlagThen (carryOut (s.getV x) (s.getV y)) x (s.getV x + s.getV y)).advance

/-- 8XY5 SUB VX, VY (R460). -/
def execSubReg (x y : Reg) (s : State) : Answer :=
  .next (s.setFlagThen (noBorrow (s.getV x) (s.getV y)) x (s.getV x - s.getV y)).advance

/-- 8XY6 SHR VX, VY (R461). -/
def execShr (x y : Reg) (s : State) : Answer :=
  .next (s.setFlagThen (shiftedOutRight (s.shiftSource x y)) x (s.shiftSource x y >>> 1)).advance

/-- 8XY7 SUBN VX, VY (R462). -/
def execSubn (x y : Reg) (s : State) : Answer :=
  .next (s.setFlagThen (noBorrow (s.getV y) (s.getV x)) x (s.getV y - s.getV x)).advance

/-- 8XYE SHL VX, VY (R463). -/
def execShl (x y : Reg) (s : State) : Answer :=
  .next (s.setFlagThen (shiftedOutLeft (s.shiftSource x y)) x (s.shiftSource x y <<< 1)).advance

/-- The effect of CXNN for the random byte `r` (R464). -/
def rndWith (r : Byte) (x : Reg) (nn : Byte) (s : State) : State := (s.setV x (r &&& nn)).advance

/-- CXNN RND VX, NN (R464): the byte drawn is a free value (log 6). -/
def execRnd (x : Reg) (nn : Byte) (s : State) : Answer := .next (rndWith s.drawByte.1 x nn s.drawByte.2)

end Sys2Proof.Machine
end

