-- ==== Sys2Proof/Machine/Control.lean ====
section
/-! DEFINITION. Control transfer (40_control_flow.md). -/

namespace Sys2Proof.Machine

/-- 00EE RET (R400). -/
def execRet (s : State) : Answer :=
  match s.pop with
  | none => raise .stackUnderflow
  | some (target, t) => .next (t.setPc target)

/-- 1NNN JP NNN (R401). -/
def execJp (nnn : Addr12) (s : State) : Answer := .next (s.setPc (zextAddr nnn))

/-- 2NNN CALL NNN (R402): the return address is the address after this instruction. -/
def execCall (nnn : Addr12) (s : State) : Answer :=
  match s.push (s.pc + 2#16) with
  | none => raise .stackOverflow
  | some t => .next (t.setPc (zextAddr nnn))

/-- 3XNN SE VX, NN (R410). -/
def execSeImm (x : Reg) (nn : Byte) (s : State) : Answer := .next (s.skipIf (s.getV x == nn))

/-- 4XNN SNE VX, NN (R411). -/
def execSneImm (x : Reg) (nn : Byte) (s : State) : Answer := .next (s.skipIf (s.getV x != nn))

/-- 5XY0 SE VX, VY (R412). -/
def execSeReg (x y : Reg) (s : State) : Answer := .next (s.skipIf (s.getV x == s.getV y))

/-- 9XY0 SNE VX, VY (R413). -/
def execSneReg (x y : Reg) (s : State) : Answer := .next (s.skipIf (s.getV x != s.getV y))

/-- BNNN JP V0, NNN (R414). -/
def execJpV0 (nnn : Addr12) (s : State) : Answer :=
  .next (s.setPc (zextAddr nnn + zextByte (s.jump0Base nnn)))

end Sys2Proof.Machine
end

