-- ==== Sys2Proof/Machine/Sprite.lean ====
section
/-! DEFINITION. The collision unit: the XOR drawing of DXYN (43_display.md R551 to R556). -/

namespace Sys2Proof.Machine

/-- The framebuffer while it is drawn and the collision seen so far (sticky, R554). -/
structure Drawing where
  fb : Framebuffer
  collision : Bool
deriving DecidableEq, Repr

/-- The column a sprite bit lands on: wrapped at the right edge when SPRITE_XWRAP (R555). -/
def spriteColumn (xwrap : Bool) (x0 c : Nat) : Nat := if xwrap then (x0 + c) % fbWidth else x0 + c

/-- Bit `7 - c` of a row: column 0 is the most significant bit (R551). -/
def rowBit (row : Byte) (c : Nat) : Bool := row.getLsbD (7 - c)

/-- The body of the two loops of R551 for row `y` of the screen and column `c` of the sprite: a set bit on the
screen inverts its pixel and sets the collision when that pixel was 1; pixels off the screen are skipped (R553). -/
def drawPixel (xwrap : Bool) (x0 y : Nat) (row : Byte) (d : Drawing) (c : Nat) : Drawing :=
  let x := spriteColumn xwrap x0 c
  if rowBit row c ∧ x < fbWidth ∧ y < fbHeight then
    let idx := pixelIndex x y
    { fb := d.fb.set idx (!d.fb.get idx), collision := d.collision || d.fb.get idx }
  else d

/-- One row: its eight columns, ascending. -/
def drawRow (xwrap : Bool) (x0 y : Nat) (row : Byte) (d : Drawing) : Drawing :=
  (List.range 8).foldl (drawPixel xwrap x0 y row) d

/-- The rows of a sprite, the first at screen row `y`, ascending. -/
def drawRows (xwrap : Bool) (x0 : Nat) : Nat → List Byte → Drawing → Drawing
  | _, [], d => d
  | y, row :: rows, d => drawRows xwrap x0 (y + 1) rows (drawRow xwrap x0 y row d)

/-- A whole sprite: the collision starts cleared (R554). -/
def drawSprite (xwrap : Bool) (x0 y0 : Nat) (rows : List Byte) (fb : Framebuffer) : Drawing :=
  drawRows xwrap x0 y0 rows { fb := fb, collision := false }

end Sys2Proof.Machine
end

