-- ==== Sys2Proof/Machine/Display.lean ====
section
/-! DEFINITION. Display instructions (43_display.md). -/

namespace Sys2Proof.Machine

/-- 00E0 CLS (R550). -/
def execCls (s : State) : Answer := .next ((s.setFb Framebuffer.blank).setRedraw true).advance

/-- What DXYN draws with the row bytes `rows` (R551). -/
def State.drawingOf (s : State) (x y : Reg) (rows : List Byte) : Drawing :=
  drawSprite s.cfg.spriteXwrap (s.spriteX x) (s.spriteY y) rows s.fb

/-- DXYN DRW VX, VY, N (R551): every row byte is read and checked, clipped ones too (R553). VF is written once,
with the collision of the whole draw: nothing sees it in between (log 10). -/
def execDrw (x y : Reg) (n : Nibble) (s : State) : Answer :=
  match s.readRange s.base n.toNat with
  | .error f => raise f
  | .ok rows =>
    .next (((s.setFb (s.drawingOf x y rows).fb).setV vf (flagByte (s.drawingOf x y rows).collision)).setRedraw
      true).advance

end Sys2Proof.Machine
end

