-- ==== Sys2Proof/Machine/Index.lean ====
section
/-! DEFINITION. Address register and memory transfer (42_index_memory.md). -/

namespace Sys2Proof.Machine

/-- ANNN LD I, NNN (R500). -/
def execLdI (nnn : Addr12) (s : State) : Answer := .next (s.setI (zextAddr nnn)).advance

/-- FX1E ADD I, VX (R501): wraps at 16 bits, VF is not written. -/
def execAddI (x : Reg) (s : State) : Answer := .next (s.setI (s.i + zextByte (s.getV x))).advance

/-- FX55 LD [I], VX (R502): I is unchanged. -/
def execStoreRegs (x : Reg) (s : State) : Answer :=
  match s.writeRange s.base (s.regsThrough x) with
  | .error f => raise f
  | .ok t => .next t.advance

/-- FX65 LD VX, [I] (R503): I is unchanged. -/
def execLoadRegs (x : Reg) (s : State) : Answer :=
  match s.readRange s.base (x.toNat + 1) with
  | .error f => raise f
  | .ok bs => .next (s.loadFrom 0 bs).advance

/-- FX29 LD F, VX (R510). -/
def execLdF (x : Reg) (s : State) : Answer :=
  .next (s.setI (BitVec.ofNat 16 (glyphAddr s.cfg (s.getV x)))).advance

/-- FX33 LD B, VX (R511): I is unchanged. -/
def execLdB (x : Reg) (s : State) : Answer :=
  match s.writeRange s.base (bcdDigits (s.getV x)) with
  | .error f => raise f
  | .ok t => .next t.advance

end Sys2Proof.Machine
end

