-- ==== Sys2Proof/Machine/Timers.lean ====
section
/-! DEFINITION. Timer and input instructions (44_timers_input.md). -/

namespace Sys2Proof.Machine

/-- FX07 LD VX, DT (R600). -/
def execLdVxDt (x : Reg) (s : State) : Answer := .next (s.setV x s.dt).advance

/-- FX15 LD DT, VX (R601). -/
def execLdDtVx (x : Reg) (s : State) : Answer := .next (s.setDt (s.getV x)).advance

/-- FX18 LD ST, VX (R602). -/
def execLdStVx (x : Reg) (s : State) : Answer := .next (s.setSt (s.getV x)).advance

/-- FX0A LD VX, K (R603): with an empty latch pc stays and the instruction runs again at the next step. -/
def execLdVxK (x : Reg) (s : State) : Answer :=
  match s.readClearKey with
  | (none, t) => .next t
  | (some k, t) => .next (t.setV x (zextKey k)).advance

/-- EX9E SKP VX (R604): the latch is cleared whether or not the key matches. -/
def execSkp (x : Reg) (s : State) : Answer :=
  .next (s.readClearKey.2.skipIf (keyMatches s.readClearKey.1 (s.getV x)))

/-- EXA1 SKNP VX (R605). -/
def execSknp (x : Reg) (s : State) : Answer :=
  .next (s.readClearKey.2.skipIf (!keyMatches s.readClearKey.1 (s.getV x)))

end Sys2Proof.Machine
end

