-- ==== Sys2Proof/Syntax.lean ====
section
/-! DEFINITION. The instructions: one constructor per row of the opcode map (30_encoding.md section 3). The
operand fields have exactly the widths of R302, so no operand is out of range. -/

namespace Sys2Proof

inductive Instr where
  /-- 00E0 CLS (R550) -/
  | cls
  /-- 00EE RET (R400) -/
  | ret
  /-- 1NNN JP NNN (R401) -/
  | jp (nnn : Addr12)
  /-- 2NNN CALL NNN (R402) -/
  | call (nnn : Addr12)
  /-- 3XNN SE VX, NN (R410) -/
  | seImm (x : Reg) (nn : Byte)
  /-- 4XNN SNE VX, NN (R411) -/
  | sneImm (x : Reg) (nn : Byte)
  /-- 5XY0 SE VX, VY (R412) -/
  | seReg (x y : Reg)
  /-- 6XNN LD VX, NN (R450) -/
  | ldImm (x : Reg) (nn : Byte)
  /-- 7XNN ADD VX, NN (R451) -/
  | addImm (x : Reg) (nn : Byte)
  /-- 8XY0 LD VX, VY (R452) -/
  | ldReg (x y : Reg)
  /-- 8XY1 OR VX, VY (R453) -/
  | orReg (x y : Reg)
  /-- 8XY2 AND VX, VY (R454) -/
  | andReg (x y : Reg)
  /-- 8XY3 XOR VX, VY (R455) -/
  | xorReg (x y : Reg)
  /-- 8XY4 ADD VX, VY (R456) -/
  | addReg (x y : Reg)
  /-- 8XY5 SUB VX, VY (R460) -/
  | subReg (x y : Reg)
  /-- 8XY6 SHR VX, VY (R461) -/
  | shr (x y : Reg)
  /-- 8XY7 SUBN VX, VY (R462) -/
  | subn (x y : Reg)
  /-- 8XYE SHL VX, VY (R463) -/
  | shl (x y : Reg)
  /-- 9XY0 SNE VX, VY (R413) -/
  | sneReg (x y : Reg)
  /-- ANNN LD I, NNN (R500) -/
  | ldI (nnn : Addr12)
  /-- BNNN JP V0, NNN (R414) -/
  | jpV0 (nnn : Addr12)
  /-- CXNN RND VX, NN (R464) -/
  | rnd (x : Reg) (nn : Byte)
  /-- DXYN DRW VX, VY, N (R551) -/
  | drw (x y : Reg) (n : Nibble)
  /-- EX9E SKP VX (R604) -/
  | skp (x : Reg)
  /-- EXA1 SKNP VX (R605) -/
  | sknp (x : Reg)
  /-- FX07 LD VX, DT (R600) -/
  | ldVxDt (x : Reg)
  /-- FX0A LD VX, K (R603) -/
  | ldVxK (x : Reg)
  /-- FX15 LD DT, VX (R601) -/
  | ldDtVx (x : Reg)
  /-- FX18 LD ST, VX (R602) -/
  | ldStVx (x : Reg)
  /-- FX1E ADD I, VX (R501) -/
  | addI (x : Reg)
  /-- FX29 LD F, VX (R510) -/
  | ldF (x : Reg)
  /-- FX33 LD B, VX (R511) -/
  | ldB (x : Reg)
  /-- FX55 LD [I], VX (R502) -/
  | storeRegs (x : Reg)
  /-- FX65 LD VX, [I] (R503) -/
  | loadRegs (x : Reg)
deriving DecidableEq, Repr

end Sys2Proof
end

