-- ==== Sys2Proof/WellFormed.lean ====
section
/-! DEFINITION. Well-formed instructions and operands. The operand fields of `Instr` have exact widths, so what
is left to check is the profile (00_scope.md R2, 30_encoding.md R306) and, for assembly operands written as
numbers, their ranges (30_encoding.md R311). -/

namespace Sys2Proof

/-- The profile column of the opcode map (30_encoding.md section 3): the smallest profile that has the
instruction. -/
def Instr.rowProfile : Instr → Profile
  | .cls | .ret | .jp _ | .call _ | .ldImm _ _ | .addImm _ _ | .ldReg _ _ | .orReg _ _ | .andReg _ _
  | .xorReg _ _ | .addReg _ _ | .ldI _ | .drw _ _ _ | .addI _ | .storeRegs _ | .loadRegs _ => .minimal
  | .seImm _ _ | .sneImm _ _ | .seReg _ _ | .subReg _ _ | .shr _ _ | .subn _ _ | .shl _ _ | .sneReg _ _
  | .jpV0 _ | .rnd _ _ | .skp _ | .sknp _ | .ldVxDt _ | .ldVxK _ | .ldDtVx _ | .ldStVx _ | .ldF _
  | .ldB _ => .full

/-- A row of profile `row` is an instruction of profile `p`: FULL has every row, MINIMAL only its own (R306). -/
def Profile.admits : (p row : Profile) → Bool
  | .full, _ => true
  | .minimal, .minimal => true
  | .minimal, .full => false

/-- An instruction is well formed under a profile when that profile has it (R2, R306). -/
def Instr.wf (p : Profile) (i : Instr) : Bool := p.admits i.rowProfile

/-- The range of a register index in assembly, V0 to VF (R310). -/
def regInRange (n : Nat) : Bool := decide (n < 16)

/-- The range of an `N` operand, 0x0 to 0xF (R311). -/
def nInRange (n : Nat) : Bool := decide (n < 16)

/-- The range of an `NN` operand, and of a `DB` byte, 0x00 to 0xFF (R311). -/
def nnInRange (n : Nat) : Bool := decide (n < 256)

/-- The range of an `NNN` operand, 0x000 to 0xFFF (R311). -/
def nnnInRange (n : Nat) : Bool := decide (n < 4096)

end Sys2Proof
end

