-- ==== Sys2Proof/Decode.lean ====
section
/-! DEFINITION. Decode and encode (30_encoding.md sections 1 to 3): total on any word and on any bytes, rejecting
by name. -/

namespace Sys2Proof

/-! ### Operand fields (R302) -/

/-- `F` = w[15:12] -/
def fieldF (w : Word) : Nibble := w.extractLsb' 12 4
/-- `X` = w[11:8] -/
def fieldX (w : Word) : Reg := w.extractLsb' 8 4
/-- `Y` = w[7:4] -/
def fieldY (w : Word) : Reg := w.extractLsb' 4 4
/-- `N` = w[3:0] -/
def fieldN (w : Word) : Nibble := w.extractLsb' 0 4
/-- `NN` = w[7:0] -/
def fieldNN (w : Word) : Byte := w.extractLsb' 0 8
/-- `NNN` = w[11:0] -/
def fieldNNN (w : Word) : Addr12 := w.extractLsb' 0 12

/-! ### Decode -/

/-- Why bytes decode to no instruction. Both `noRow` and `fullOnly` are the illegal word of R307, which the step
reports as `UnimplementedOpcode`. -/
inductive DecodeError where
  /-- the word matches no row of the opcode map under either profile (R307, R309) -/
  | noRow (w : Word)
  /-- the word matches only a row of profile FULL and the profile is MINIMAL (R306) -/
  | fullOnly (w : Word)
  /-- fewer than the two bytes that every instruction has (R301) -/
  | truncated
deriving DecidableEq, Repr

/-- Family 0x0 matches the whole word (R305). -/
def decodeFamily0 (w : Word) : Option Instr :=
  if w = 0x00E0#16 then some .cls
  else if w = 0x00EE#16 then some .ret
  else none

/-- Family 0x8 is classified by w[3:0] (R304). -/
def decodeFamily8 (x y : Reg) (n : Nibble) : Option Instr :=
  if n = 0x0#4 then some (.ldReg x y)
  else if n = 0x1#4 then some (.orReg x y)
  else if n = 0x2#4 then some (.andReg x y)
  else if n = 0x3#4 then some (.xorReg x y)
  else if n = 0x4#4 then some (.addReg x y)
  else if n = 0x5#4 then some (.subReg x y)
  else if n = 0x6#4 then some (.shr x y)
  else if n = 0x7#4 then some (.subn x y)
  else if n = 0xE#4 then some (.shl x y)
  else none

/-- Family 0xE is classified by w[7:0] (R304). -/
def decodeFamilyE (x : Reg) (nn : Byte) : Option Instr :=
  if nn = 0x9E#8 then some (.skp x)
  else if nn = 0xA1#8 then some (.sknp x)
  else none

/-- Family 0xF is classified by w[7:0] (R304). -/
def decodeFamilyF (x : Reg) (nn : Byte) : Option Instr :=
  if nn = 0x07#8 then some (.ldVxDt x)
  else if nn = 0x0A#8 then some (.ldVxK x)
  else if nn = 0x15#8 then some (.ldDtVx x)
  else if nn = 0x18#8 then some (.ldStVx x)
  else if nn = 0x1E#8 then some (.addI x)
  else if nn = 0x29#8 then some (.ldF x)
  else if nn = 0x33#8 then some (.ldB x)
  else if nn = 0x55#8 then some (.storeRegs x)
  else if nn = 0x65#8 then some (.loadRegs x)
  else none

/-- The row of the opcode map that a word matches, whatever the profile (R304). All sixteen families stand
below: 0x5 and 0x9 need w[3:0] = 0. -/
def decodeRow (w : Word) : Option Instr :=
  let x := fieldX w
  let y := fieldY w
  let n := fieldN w
  let nn := fieldNN w
  let nnn := fieldNNN w
  match fieldF w with
  | 0x0#4 => decodeFamily0 w
  | 0x1#4 => some (.jp nnn)
  | 0x2#4 => some (.call nnn)
  | 0x3#4 => some (.seImm x nn)
  | 0x4#4 => some (.sneImm x nn)
  | 0x5#4 => if n = 0x0#4 then some (.seReg x y) else none
  | 0x6#4 => some (.ldImm x nn)
  | 0x7#4 => some (.addImm x nn)
  | 0x8#4 => decodeFamily8 x y n
  | 0x9#4 => if n = 0x0#4 then some (.sneReg x y) else none
  | 0xA#4 => some (.ldI nnn)
  | 0xB#4 => some (.jpV0 nnn)
  | 0xC#4 => some (.rnd x nn)
  | 0xD#4 => some (.drw x y n)
  | 0xE#4 => decodeFamilyE x nn
  | 0xF#4 => decodeFamilyF x nn
  | _ => none

/-- Decode one word under a profile (R306, R307): it reads only the word and the profile (R308). -/
def decode (p : Profile) (w : Word) : Except DecodeError Instr :=
  match decodeRow w with
  | none => .error (.noRow w)
  | some i => if i.wf p then .ok i else .error (.fullOnly w)

/-- The instruction word of two bytes, the byte at the lower address first (R300, 20_memory.md R209). -/
def wordOfBytes (hi lo : Byte) : Word := hi ++ lo

/-- The two bytes of a word in the order they stand in memory (R300). -/
def bytesOfWord (w : Word) : List Byte := [w.extractLsb' 8 8, w.extractLsb' 0 8]

/-- Decode any bytes: every instruction takes exactly two (R301); the rest is handed back. -/
def decodeBytes (p : Profile) : List Byte → Except DecodeError (Instr × List Byte)
  | hi :: lo :: rest =>
    match decode p (wordOfBytes hi lo) with
    | .error e => .error e
    | .ok i => .ok (i, rest)
  | _ => .error .truncated

/-! ### Encode, from the same patterns (section 3) -/

/-- The word of an instruction (section 3, formats of R303). -/
def encode : Instr → Word
  | .cls => 0x00E0#16
  | .ret => 0x00EE#16
  | .jp nnn => 0x1#4 ++ nnn
  | .call nnn => 0x2#4 ++ nnn
  | .seImm x nn => 0x3#4 ++ x ++ nn
  | .sneImm x nn => 0x4#4 ++ x ++ nn
  | .seReg x y => 0x5#4 ++ x ++ y ++ 0x0#4
  | .ldImm x nn => 0x6#4 ++ x ++ nn
  | .addImm x nn => 0x7#4 ++ x ++ nn
  | .ldReg x y => 0x8#4 ++ x ++ y ++ 0x0#4
  | .orReg x y => 0x8#4 ++ x ++ y ++ 0x1#4
  | .andReg x y => 0x8#4 ++ x ++ y ++ 0x2#4
  | .xorReg x y => 0x8#4 ++ x ++ y ++ 0x3#4
  | .addReg x y => 0x8#4 ++ x ++ y ++ 0x4#4
  | .subReg x y => 0x8#4 ++ x ++ y ++ 0x5#4
  | .shr x y => 0x8#4 ++ x ++ y ++ 0x6#4
  | .subn x y => 0x8#4 ++ x ++ y ++ 0x7#4
  | .shl x y => 0x8#4 ++ x ++ y ++ 0xE#4
  | .sneReg x y => 0x9#4 ++ x ++ y ++ 0x0#4
  | .ldI nnn => 0xA#4 ++ nnn
  | .jpV0 nnn => 0xB#4 ++ nnn
  | .rnd x nn => 0xC#4 ++ x ++ nn
  | .drw x y n => 0xD#4 ++ x ++ y ++ n
  | .skp x => 0xE#4 ++ x ++ 0x9E#8
  | .sknp x => 0xE#4 ++ x ++ 0xA1#8
  | .ldVxDt x => 0xF#4 ++ x ++ 0x07#8
  | .ldVxK x => 0xF#4 ++ x ++ 0x0A#8
  | .ldDtVx x => 0xF#4 ++ x ++ 0x15#8
  | .ldStVx x => 0xF#4 ++ x ++ 0x18#8
  | .addI x => 0xF#4 ++ x ++ 0x1E#8
  | .ldF x => 0xF#4 ++ x ++ 0x29#8
  | .ldB x => 0xF#4 ++ x ++ 0x33#8
  | .storeRegs x => 0xF#4 ++ x ++ 0x55#8
  | .loadRegs x => 0xF#4 ++ x ++ 0x65#8

/-- The two bytes of an instruction in memory order. -/
def encodeBytes (i : Instr) : List Byte := bytesOfWord (encode i)

/-! ### The opcode map as a table -/

/-- One row of the opcode map: a word `w` matches when `w &&& mask = pattern` (R309). -/
structure OpcodeRow where
  mask : Word
  pattern : Word
  profile : Profile
deriving DecidableEq, Repr

/-- The row of an instruction: the columns mask, match and profile of section 3. -/
def Instr.row : Instr → OpcodeRow
  | .cls => ⟨0xFFFF#16, 0x00E0#16, .minimal⟩
  | .ret => ⟨0xFFFF#16, 0x00EE#16, .minimal⟩
  | .jp _ => ⟨0xF000#16, 0x1000#16, .minimal⟩
  | .call _ => ⟨0xF000#16, 0x2000#16, .minimal⟩
  | .seImm _ _ => ⟨0xF000#16, 0x3000#16, .full⟩
  | .sneImm _ _ => ⟨0xF000#16, 0x4000#16, .full⟩
  | .seReg _ _ => ⟨0xF00F#16, 0x5000#16, .full⟩
  | .ldImm _ _ => ⟨0xF000#16, 0x6000#16, .minimal⟩
  | .addImm _ _ => ⟨0xF000#16, 0x7000#16, .minimal⟩
  | .ldReg _ _ => ⟨0xF00F#16, 0x8000#16, .minimal⟩
  | .orReg _ _ => ⟨0xF00F#16, 0x8001#16, .minimal⟩
  | .andReg _ _ => ⟨0xF00F#16, 0x8002#16, .minimal⟩
  | .xorReg _ _ => ⟨0xF00F#16, 0x8003#16, .minimal⟩
  | .addReg _ _ => ⟨0xF00F#16, 0x8004#16, .minimal⟩
  | .subReg _ _ => ⟨0xF00F#16, 0x8005#16, .full⟩
  | .shr _ _ => ⟨0xF00F#16, 0x8006#16, .full⟩
  | .subn _ _ => ⟨0xF00F#16, 0x8007#16, .full⟩
  | .shl _ _ => ⟨0xF00F#16, 0x800E#16, .full⟩
  | .sneReg _ _ => ⟨0xF00F#16, 0x9000#16, .full⟩
  | .ldI _ => ⟨0xF000#16, 0xA000#16, .minimal⟩
  | .jpV0 _ => ⟨0xF000#16, 0xB000#16, .full⟩
  | .rnd _ _ => ⟨0xF000#16, 0xC000#16, .full⟩
  | .drw _ _ _ => ⟨0xF000#16, 0xD000#16, .minimal⟩
  | .skp _ => ⟨0xF0FF#16, 0xE09E#16, .full⟩
  | .sknp _ => ⟨0xF0FF#16, 0xE0A1#16, .full⟩
  | .ldVxDt _ => ⟨0xF0FF#16, 0xF007#16, .full⟩
  | .ldVxK _ => ⟨0xF0FF#16, 0xF00A#16, .full⟩
  | .ldDtVx _ => ⟨0xF0FF#16, 0xF015#16, .full⟩
  | .ldStVx _ => ⟨0xF0FF#16, 0xF018#16, .full⟩
  | .addI _ => ⟨0xF0FF#16, 0xF01E#16, .minimal⟩
  | .ldF _ => ⟨0xF0FF#16, 0xF029#16, .full⟩
  | .ldB _ => ⟨0xF0FF#16, 0xF033#16, .full⟩
  | .storeRegs _ => ⟨0xF0FF#16, 0xF055#16, .minimal⟩
  | .loadRegs _ => ⟨0xF0FF#16, 0xF065#16, .minimal⟩

/-- One instruction of each row of section 3, in the table's order. -/
def rowSamples : List Instr :=
  [.cls, .ret, .jp 0, .call 0, .seImm 0 0, .sneImm 0 0, .seReg 0 0, .ldImm 0 0, .addImm 0 0] ++
  [.ldReg 0 0, .orReg 0 0, .andReg 0 0, .xorReg 0 0, .addReg 0 0, .subReg 0 0, .shr 0 0, .subn 0 0] ++
  [.shl 0 0, .sneReg 0 0, .ldI 0, .jpV0 0, .rnd 0 0, .drw 0 0 0, .skp 0, .sknp 0] ++
  [.ldVxDt 0, .ldVxK 0, .ldDtVx 0, .ldStVx 0, .addI 0, .ldF 0, .ldB 0, .storeRegs 0, .loadRegs 0]

/-- The 34 rows of the opcode map (section 3). -/
def opcodeTable : List OpcodeRow := rowSamples.map Instr.row

/-- A word matches a row (R309). -/
def OpcodeRow.hits (r : OpcodeRow) (w : Word) : Bool := w &&& r.mask == r.pattern

/-! ### The host's view of the decoder -/

/-- The instruction the decoder reads from a word numbered as spec/opcode_table.json numbers it, the bits above
`nbits` zero, laid out as the hardware stores it (big-endian). The table holds the rows of both profiles, so the
profile is FULL (log 2). -/
def decodeTableWord (nbits w : Nat) : Option Instr :=
  match decodeBytes .full (bytesOfWord (BitVec.ofNat 16 (w % 2 ^ nbits))) with
  | .ok (i, _) => some i
  | .error _ => none

end Sys2Proof
end

