-- ==== Sys2Proof/Machine/Fetch.lean ====
section
/-! DEFINITION. Fetching an instruction word, and placing one where the next fetch reads it. -/

namespace Sys2Proof.Machine

/-- Fetch (30_encoding.md R300, R320): both bytes are checked before either is read. -/
def State.fetch (s : State) : Except Fault Word :=
  match checkRange s.pc.toNat 2 with
  | .error f => .error f
  | .ok _ => .ok (wordOfBytes (s.byteAt s.pc.toNat) (s.byteAt (s.pc.toNat + 1)))

/-- Decode as the step does it: a word that is no instruction of the profile raises `UnimplementedOpcode` with
the whole word (R306, R307, 60_exceptions.md R703). -/
def decodeForStep (p : Profile) (w : Word) : Except Fault Instr :=
  match decode p w with
  | .error _ => .error (.unimplementedOpcode w)
  | .ok i => .ok i

/-- The profile a CORE needs to run the word: FULL for a word that only FULL has, else the profile given (log 2). -/
def profileFor (p : Profile) (w : Word) : Profile :=
  match decode p w with
  | .error (.fullOnly _) => .full
  | _ => p

/-- The state whose next fetch reads `w`: its two bytes stand at pc and pc + 1, and the CORE is one that has the
instruction (log 2, log 3). -/
def State.placeWord (s : State) (w : Word) : State :=
  (s.setBytes s.pc.toNat (bytesOfWord w)).setProfile (profileFor s.cfg.profile w)

end Sys2Proof.Machine
end

