-- ==== Sys2Proof/Machine/Step.lean ====
section
/-! DEFINITION. One step of the CORE (30_encoding.md R320): fetch, decode, execute; the first fault in that order
is the one reported (R324). -/

namespace Sys2Proof.Machine

def step (s : State) : Host.Outcome State Fault Refusal :=
  match s.beginStep.fetch with
  | .error f => raise f
  | .ok w =>
    match decodeForStep s.cfg.profile w with
    | .error f => raise f
    | .ok i => exec i s.beginStep

/-- The host's probe: the instruction word stored where `step` fetches next (log 2, log 3). -/
def State.withFetchWord (s : State) (nbits w : Nat) : State := s.placeWord (BitVec.ofNat 16 (w % 2 ^ nbits))

end Sys2Proof.Machine
end

