-- ==== Sys2Proof/Machine/Assembler.lean ====
section
/-! DEFINITION. The assembly syntax of the spec (30_encoding.md R310, R311), over tokens: a line is a mnemonic and
its operands, destination first, or the data directive `DB`. -/

namespace Sys2Proof.Machine

/-- The mnemonics of R310. -/
inductive Mnemonic where
  | CLS | RET | JP | CALL | SE | SNE | LD | ADD | OR | AND | XOR | SUB | SHR | SUBN | SHL | RND | DRW | SKP | SKNP
deriving DecidableEq, Repr

/-- An operand as it is written: `V0` to `VF`, a number, or one of the fixed names `I`, `[I]`, `DT`, `ST`, `K`,
`F`, `B`. -/
inductive Operand where
  | v (index : Nat)
  | num (n : Nat)
  | i | atI | dt | st | k | f | b
deriving DecidableEq, Repr

/-- A line of assembly. -/
inductive AsmLine where
  | op (mnemonic : Mnemonic) (operands : List Operand)
  | db (bytes : List Nat)
deriving DecidableEq, Repr

/-- One register operand; out of range is refused (R310). -/
def asmX (x : Nat) (f : Reg → Instr) : Option Instr := if regInRange x then some (f (BitVec.ofNat 4 x)) else none

/-- Two register operands. -/
def asmXY (x y : Nat) (f : Reg → Reg → Instr) : Option Instr :=
  if regInRange x && regInRange y then some (f (BitVec.ofNat 4 x) (BitVec.ofNat 4 y)) else none

/-- A register and an NN operand (R311). -/
def asmXNN (x n : Nat) (f : Reg → Byte → Instr) : Option Instr :=
  if regInRange x && nnInRange n then some (f (BitVec.ofNat 4 x) (BitVec.ofNat 8 n)) else none

/-- An NNN operand (R311). -/
def asmNNN (n : Nat) (f : Addr12 → Instr) : Option Instr :=
  if nnnInRange n then some (f (BitVec.ofNat 12 n)) else none

/-- The instruction of a mnemonic line (R310); none is an assembler's refusal (R311). -/
def assembleInstr : Mnemonic → List Operand → Option Instr
  | .CLS, [] => some .cls
  | .RET, [] => some .ret
  | .JP, [.num n] => asmNNN n .jp
  | .JP, [.v 0, .num n] => asmNNN n .jpV0
  | .CALL, [.num n] => asmNNN n .call
  | .SE, [.v x, .num n] => asmXNN x n .seImm
  | .SE, [.v x, .v y] => asmXY x y .seReg
  | .SNE, [.v x, .num n] => asmXNN x n .sneImm
  | .SNE, [.v x, .v y] => asmXY x y .sneReg
  | .LD, [.v x, .num n] => asmXNN x n .ldImm
  | .LD, [.v x, .v y] => asmXY x y .ldReg
  | .LD, [.i, .num n] => asmNNN n .ldI
  | .LD, [.v x, .dt] => asmX x .ldVxDt
  | .LD, [.v x, .k] => asmX x .ldVxK
  | .LD, [.dt, .v x] => asmX x .ldDtVx
  | .LD, [.st, .v x] => asmX x .ldStVx
  | .LD, [.f, .v x] => asmX x .ldF
  | .LD, [.b, .v x] => asmX x .ldB
  | .LD, [.atI, .v x] => asmX x .storeRegs
  | .LD, [.v x, .atI] => asmX x .loadRegs
  | .ADD, [.v x, .num n] => asmXNN x n .addImm
  | .ADD, [.v x, .v y] => asmXY x y .addReg
  | .ADD, [.i, .v x] => asmX x .addI
  | .OR, [.v x, .v y] => asmXY x y .orReg
  | .AND, [.v x, .v y] => asmXY x y .andReg
  | .XOR, [.v x, .v y] => asmXY x y .xorReg
  | .SUB, [.v x, .v y] => asmXY x y .subReg
  | .SHR, [.v x, .v y] => asmXY x y .shr
  | .SHR, [.v x] => asmXY x 0 .shr
  | .SUBN, [.v x, .v y] => asmXY x y .subn
  | .SHL, [.v x, .v y] => asmXY x y .shl
  | .SHL, [.v x] => asmXY x 0 .shl
  | .RND, [.v x, .num n] => asmXNN x n .rnd
  | .DRW, [.v x, .v y, .num n] => if nInRange n then asmXY x y fun a b => .drw a b (BitVec.ofNat 4 n) else none
  | .SKP, [.v x] => asmX x .skp
  | .SKNP, [.v x] => asmX x .sknp
  | _, _ => none

/-- The bytes of a line: every mnemonic line is exactly one word, `DB` its bytes in order (R311). -/
def assembleLine : AsmLine → Option (List Byte)
  | .op m ops => (assembleInstr m ops).map encodeBytes
  | .db bytes => if bytes.all nnInRange then some (bytes.map (BitVec.ofNat 8)) else none

/-- The image of a program: its lines in order; a line that is refused refuses the whole. -/
def assemble : List AsmLine → Option (List Byte)
  | [] => some []
  | l :: ls =>
    match assembleLine l, assemble ls with
    | some b, some bs => some (b ++ bs)
    | _, _ => none

end Sys2Proof.Machine
end

