-- ==== Sys2Proof/Machine/Ports.lean ====
section
/-! DEFINITION. The host-facing ports (10_state.md R125 to R134): the commands, issued one at a time, and what
each answers. -/

namespace Sys2Proof.Machine

/-- The step result as a hardware realization carries it (R129). A field that the result does not define is 0
(DESIGN CHOICE, log 9). -/
structure StepResult where
  ok : Bool
  redraw : Bool
  faultCode : BitVec 3
  faultWord : Word
  faultAddr : Word
deriving DecidableEq, Repr

/-- The numeric fault codes (60_exceptions.md R700); 5 to 7 are never produced. -/
def faultCode : Fault → BitVec 3
  | .stackUnderflow => 1#3
  | .stackOverflow => 2#3
  | .unimplementedOpcode _ => 3#3
  | .memoryOutOfBounds _ => 4#3

/-- The payload `fault_word` (R700). -/
def faultWord : Fault → Word
  | .unimplementedOpcode w => w
  | _ => 0x0000#16

/-- The payload `fault_addr` (R700); it fits 16 bits (20_memory.md R212). -/
def faultAddr : Fault → Word
  | .memoryOutOfBounds a => BitVec.ofNat 16 a
  | _ => 0x0000#16

/-- The step result of a completed step or of a fault (R129). -/
def okResult (redraw : Bool) : StepResult := ⟨true, redraw, 0#3, 0x0000#16, 0x0000#16⟩
def faultResult (f : Fault) : StepResult := ⟨false, false, faultCode f, faultWord f, faultAddr f⟩

/-- `reset()` (R128, 70_reset_and_hazards.md R800): the power-on state of the same CORE. The random input is no
state of the CORE, so it does not start over (log 6). -/
def State.resetCommand (s : State) : State := (State.powerOn s.cfg).setDraws s.draws

/-- PROGRAM_BASE and MAX_PROGRAM (00_scope.md R5). -/
abbrev programBase : Nat := 0x200
abbrev maxProgram : Nat := 3584

/-- `load_program(bytes)` (R127, 70_reset_and_hazards.md R802, R803): none is `LoadError`. -/
def State.loadProgram (s : State) (bytes : List Byte) : Option State :=
  if maxProgram < bytes.length then none else some (s.resetCommand.setBytes programBase bytes)

/-- A timer decrements toward zero and stays there (60_exceptions.md R720). -/
def decTimer (b : Byte) : Byte := if b = 0x00#8 then b else b - 1#8

/-- `tick()` (R132, 60_exceptions.md R720). -/
def State.tick (s : State) : State := (s.setDt (decTimer s.dt)).setSt (decTimer s.st)

/-- `framebuffer()` (R130): the pixels as bytes 0 or 1, in index order (R108, R109). -/
def State.framebuffer (s : State) : List Byte := s.fb.pixels.map fun p => if p then 0x01#8 else 0x00#8

/-- `sound_active` (R133). -/
def State.soundActive (s : State) : Bool := s.st != 0x00#8

/-- The commands of the host (R126 to R132). -/
inductive Command where
  | step
  | loadProgram (bytes : List Byte)
  | reset
  | tick
  | setKey (code : Nibble)
  | clearKey
  | framebuffer
deriving DecidableEq, Repr

/-- What a command answers. -/
inductive Response where
  /-- the command is done and has nothing to report -/
  | ok
  /-- the result of `step()` -/
  | stepped (result : StepResult)
  /-- `load_program` refused an image that is too long -/
  | loadError
  /-- the view of the framebuffer -/
  | pixels (bytes : List Byte)
  /-- no meaning for an instruction: never, every arm of exec has one -/
  | refused (reason : Refusal)
deriving DecidableEq, Repr

/-- A `step` command: after a fault the state is the one before the step (60_exceptions.md R705, R708). -/
def State.stepCommand (s : State) : State × Response :=
  match step s with
  | .next t => (t, .stepped (okResult t.redraw))
  | .fault f => (s, .stepped (faultResult f))
  | .refused r => (s, .refused r)

/-- One command of the host, atomic (R125). -/
def State.command (s : State) : Command → State × Response
  | .step => s.stepCommand
  | .loadProgram bytes =>
    match s.loadProgram bytes with
    | none => (s, .loadError)
    | some t => (t, .ok)
  | .reset => (s.resetCommand, .ok)
  | .tick => (s.tick, .ok)
  | .setKey code => (s.setKey (some code), .ok)
  | .clearKey => (s.setKey none, .ok)
  | .framebuffer => (s, .pixels s.framebuffer)

/-- The state after a schedule of commands. -/
def State.commands (s : State) : List Command → State
  | [] => s
  | c :: cs => (s.command c).1.commands cs

end Sys2Proof.Machine
end

