-- ==== Sys2Proof/Safety.lean ====
section
/-! DEFINITION. What counts as a safe run, and the words the statements use: the invariant, what an instruction may
change, what a sprite covers. -/

namespace Sys2Proof.Machine

/-! ### The invariant -/

/-- The largest value pc can reach (30_encoding.md R323). -/
abbrev pcMax : Nat := 0x10FE

/-- A return address is the address after a CALL that was fetched, at most 0xFFE + 2 (40_control_flow.md R402). -/
abbrev returnMax : Nat := 0x1000

/-- What every step keeps: memory in its canonical form (20_memory.md R200), pc in 0x0000 to 0x10FE (R323), and
the stack entries return addresses. -/
def State.Inv (s : State) : Prop :=
  s.mem.wf s.cfg ∧ s.pc.toNat ≤ pcMax ∧ ∀ k : Fin 16, (s.stack.get k).toNat ≤ returnMax

/-! ### Steps -/

/-- The two bytes at pc exist and are the word `w`, big-endian (R300). -/
def State.Fetches (s : State) (w : Word) : Prop :=
  s.pc.toNat + 1 < memSize ∧ w.extractLsb' 8 8 = s.byteAt s.pc.toNat ∧ w.extractLsb' 0 8 = s.byteAt (s.pc.toNat + 1)

/-- A step that completes. -/
def State.Completes (s : State) : Prop := ∃ t, step s = .next t

/-- A state in which the next step succeeds, reports redraw `false` and changes nothing (70_reset_and_hazards.md
R805 (b), (c)). -/
def State.StandsStill (s : State) : Prop := step s = .next (s.setRedraw false)

/-- `n` steps all complete: a run without a fault. -/
def State.RunsFor : Nat → State → Prop
  | 0, _ => True
  | n + 1, s => ∃ t, step s = .next t ∧ State.RunsFor n t

/-- The two commands that set the machine up anew (60_exceptions.md R708). -/
def Command.startsOver : Command → Bool
  | .reset | .loadProgram _ => true
  | _ => false

/-! ### Reset -/

/-- Every element but memory has its reset value (10_state.md R114). -/
structure State.ElementsAtReset (s : State) : Prop where
  v : ∀ x, s.getV x = 0x00#8
  i : s.i = 0x0000#16
  pc : s.pc = 0x0200#16
  sp : s.sp.val = 0
  stack : ∀ k, s.stack.get k = 0x0000#16
  dt : s.dt = 0x00#8
  st : s.st = 0x00#8
  fb : ∀ idx, idx < fbSize → s.fb.get idx = false
  key : s.key = none

/-- Memory has its reset contents: FONT_DATA from FONT_BASE on, 0x00 elsewhere (R114, 20_memory.md R205). -/
def State.MemoryAtReset (s : State) : Prop :=
  (∀ k : Fin 80, s.byteAt (s.cfg.fontBase.val + k.val) = s.cfg.fontData.get k) ∧
    ∀ a, a < memSize → (a < s.cfg.fontBase.val ∨ s.cfg.fontBase.val + 80 ≤ a) → s.byteAt a = 0x00#8

/-! ### Encodings -/

/-- The word matches a row of the opcode map that the profile has (30_encoding.md R306, R307). -/
def RowOf (p : Profile) (w : Word) : Prop := ∃ r ∈ opcodeTable, r.hits w = true ∧ p.admits r.profile = true

/-- `w` is the encoding of `i` in an opcode-map row of profile `row`: FULL decodes `w` to `i`; MINIMAL does so too
when the row is MINIMAL's, and otherwise finds no instruction (30_encoding.md R306, R307). -/
def EncodedAs (i : Instr) (row : Profile) (w : Word) : Prop :=
  decode .full w = .ok i ∧ decode .minimal w = match row with
    | .minimal => .ok i
    | .full => .error (.fullOnly w)

/-! ### Frames -/

/-- The parts of the state beside V, pc and memory. -/
inductive Part where
  | i | stack | dt | st | screen | key | redraw | draws
deriving DecidableEq, Repr

/-- `t` differs from `s` at most in pc, in the registers of `regs`, in the parts of `parts` and in the `n` bytes of
memory from `lo` on. -/
structure Frame (s t : State) (regs : Reg → Prop) (parts : List Part) (lo n : Nat) : Prop where
  regs : ∀ y, ¬regs y → t.getV y = s.getV y
  i : Part.i ∉ parts → t.i = s.i
  stack : Part.stack ∉ parts → t.sp = s.sp ∧ t.stack = s.stack
  dt : Part.dt ∉ parts → t.dt = s.dt
  st : Part.st ∉ parts → t.st = s.st
  screen : Part.screen ∉ parts → ∀ idx, t.fb.get idx = s.fb.get idx
  key : Part.key ∉ parts → t.key = s.key
  redraw : Part.redraw ∉ parts → t.redraw = s.redraw
  draws : Part.draws ∉ parts → t.draws = s.draws
  mem : ∀ a, a < lo ∨ lo + n ≤ a → t.byteAt a = s.byteAt a
  cfg : t.cfg = s.cfg

/-- The general registers an instruction may write: its destination, and VF for the instructions of 10_state.md
R101. -/
def writtenRegs (i : Instr) (y : Reg) : Prop :=
  match i with
  | .ldImm x _ | .addImm x _ | .ldReg x _ | .orReg x _ | .andReg x _ | .xorReg x _ | .rnd x _ | .ldVxDt x
  | .ldVxK x => y = x
  | .addReg x _ | .subReg x _ | .shr x _ | .subn x _ | .shl x _ => y = x ∨ y = vf
  | .drw _ _ _ => y = vf
  | .loadRegs x => y.toNat ≤ x.toNat
  | .cls | .ret | .jp _ | .call _ | .seImm _ _ | .sneImm _ _ | .seReg _ _ | .sneReg _ _ | .ldI _ | .jpV0 _
  | .skp _ | .sknp _ | .ldDtVx _ | .ldStVx _ | .addI _ | .ldF _ | .ldB _ | .storeRegs _ => False

/-- The parts an instruction may write beside V, pc and memory. -/
def writtenParts : Instr → List Part
  | .cls | .drw _ _ _ => [.screen, .redraw]
  | .ret | .call _ => [.stack]
  | .ldI _ | .addI _ | .ldF _ => [.i]
  | .rnd _ _ => [.draws]
  | .skp _ | .sknp _ | .ldVxK _ => [.key]
  | .ldDtVx _ => [.dt]
  | .ldStVx _ => [.st]
  | .jp _ | .seImm _ _ | .sneImm _ _ | .seReg _ _ | .sneReg _ _ | .jpV0 _ | .ldImm _ _ | .addImm _ _
  | .ldReg _ _ | .orReg _ _ | .andReg _ _ | .xorReg _ _ | .addReg _ _ | .subReg _ _ | .shr _ _ | .subn _ _
  | .shl _ _ | .ldVxDt _ | .ldB _ | .storeRegs _ | .loadRegs _ => []

/-- How many bytes an instruction stores, from the base of a data access on (20_memory.md R210). -/
def storedBytes : Instr → Nat
  | .storeRegs x => x.toNat + 1
  | .ldB _ => 3
  | .cls | .ret | .jp _ | .call _ | .seImm _ _ | .sneImm _ _ | .seReg _ _ | .sneReg _ _ | .jpV0 _ | .ldImm _ _
  | .addImm _ _ | .ldReg _ _ | .orReg _ _ | .andReg _ _ | .xorReg _ _ | .addReg _ _ | .subReg _ _ | .shr _ _
  | .subn _ _ | .shl _ _ | .ldI _ | .rnd _ _ | .drw _ _ _ | .skp _ | .sknp _ | .ldVxDt _ | .ldVxK _ | .ldDtVx _
  | .ldStVx _ | .addI _ | .ldF _ | .loadRegs _ => 0

/-! ### Sprites -/

/-- Some set bit of the `n`-row sprite at I, drawn at (`vx mod 64`, `vy mod 32`), lands on pixel `idx` of the screen
(43_display.md R552, R553, R555). -/
def State.Covers (s : State) (x y : Reg) (n : Nibble) (idx : Nat) : Prop :=
  ∃ r c px, r < n.toNat ∧ c < 8 ∧
    (s.byteAt (s.i.toNat + r)).getLsbD (7 - c) = true ∧
    px = (if s.cfg.spriteXwrap then ((s.getV x).toNat % 64 + c) % 64 else (s.getV x).toNat % 64 + c) ∧
    px < 64 ∧ (s.getV y).toNat % 32 + r < 32 ∧ idx = ((s.getV y).toNat % 32 + r) * 64 + px

end Sys2Proof.Machine
end

