-- ==== Sys2Proof/Certificates/Slice0/Obligations.lean ====
section
/-! DEFINITION. The statements for the provers. Each docstring says which rule of the spec it formalises, or which
choice of the model it rests on. -/

open Sys2Proof Sys2Proof.Machine

/-! ### Reset and the invariant -/

/-- Every element has its reset value, for every setting of the parameters: after the command (10_state.md R114,
70_reset_and_hazards.md R800) and at power-on (R801). The last clause is the model's choice, log 2: `State.reset` is
the power-on state of a CORE with its parameters at the defaults. -/
def Obligations.ResetLeavesTheStatedValues : Prop :=
  (∀ c : Config, (State.powerOn c).ElementsAtReset ∧ (State.powerOn c).MemoryAtReset ∧ (State.powerOn c).cfg = c) ∧
  (∀ s : State, (s.command .reset).1.ElementsAtReset ∧ (s.command .reset).1.MemoryAtReset ∧
    (s.command .reset).1.cfg = s.cfg) ∧
  State.reset = State.powerOn Config.default

/-- 20_memory.md R206, R114: with the font that is the default of FONT_DATA, glyph by glyph, rows top first, at
every FONT_BASE. -/
def Obligations.StandardFontStandsAtReset : Prop :=
  Config.default.fontData = standardFont ∧ Config.default.fontBase.val = 0 ∧
  ∀ c : Config, c.fontData = standardFont →
    (List.range 16).map (fun g => (State.powerOn c).bytesAt (c.fontBase.val + 5 * g) 5) =
      [[0xF0, 0x90, 0x90, 0x90, 0xF0], [0x20, 0x60, 0x20, 0x20, 0x70], [0xF0, 0x10, 0xF0, 0x80, 0xF0],
       [0xF0, 0x10, 0xF0, 0x10, 0xF0], [0x90, 0x90, 0xF0, 0x10, 0x10], [0xF0, 0x80, 0xF0, 0x10, 0xF0],
       [0xF0, 0x80, 0xF0, 0x90, 0xF0], [0xF0, 0x10, 0x20, 0x40, 0x40]] ++
      [[0xF0, 0x90, 0xF0, 0x90, 0xF0], [0xF0, 0x90, 0xF0, 0x10, 0xF0], [0xF0, 0x90, 0xF0, 0x90, 0x90],
       [0xE0, 0x90, 0xE0, 0x90, 0xE0], [0xF0, 0x80, 0x80, 0x80, 0xF0], [0xE0, 0x90, 0x90, 0x90, 0xE0],
       [0xF0, 0x80, 0xF0, 0x80, 0xF0], [0xF0, 0x80, 0xF0, 0x80, 0x80]]

/-- The invariant holds at power-on (the canonical form of memory is the model's, log 7). -/
def Obligations.PowerOnMeetsInvariant : Prop := ∀ c : Config, (State.powerOn c).Inv

/-- Every step keeps the invariant: pc stays in 0x0000 to 0x10FE (30_encoding.md R323), the stack entries stay return
addresses, memory stays canonical (the model's form, log 7). -/
def Obligations.StepKeepsInvariant : Prop := ∀ s t : State, s.Inv → step s = .next t → t.Inv

/-- Every schedule of host commands keeps the invariant. -/
def Obligations.CommandScheduleKeepsInvariant : Prop :=
  ∀ (s : State) (cs : List Command), s.Inv → (s.commands cs).Inv

/-- 00_scope.md R5: the parameters are fixed for the lifetime of one CORE instance. That State holds them is the
model's choice, log 1. -/
def Obligations.CommandsKeepParameters : Prop := ∀ (s : State) (c : Command), (s.command c).1.cfg = s.cfg

/-! ### Encoding -/

/-- No bit of an encoding is dropped, under either profile (30_encoding.md R306). -/
def Obligations.DecodeOfEncode : Prop :=
  ∀ (p : Profile) (i : Instr), (i.wf p = true → decode p (encode i) = .ok i) ∧
    (i.wf p = false → decode p (encode i) = .error (.fullOnly (encode i))) ∧
    decodeBytes .full (encodeBytes i) = .ok (i, [])

/-- Each word has one meaning: what decodes to an instruction is that instruction's encoding. -/
def Obligations.EncodeOfDecode : Prop :=
  ∀ (p : Profile) (w : Word) (i : Instr), decode p w = .ok i → encode i = w ∧ i.wf p = true

/-- 30_encoding.md R309: the rows are disjoint, and the words it lists are illegal. -/
def Obligations.OpcodeRowsAreDisjoint : Prop :=
  (∀ w : Word, ∀ r ∈ opcodeTable, ∀ r' ∈ opcodeTable, r.hits w = true → r'.hits w = true → r = r') ∧
  (∀ (p : Profile) (w : Word),
    ((fieldF w = 0x0#4 ∧ w ≠ 0x00E0#16 ∧ w ≠ 0x00EE#16) ∨
     ((fieldF w = 0x5#4 ∨ fieldF w = 0x9#4) ∧ fieldN w ≠ 0x0#4) ∨
     (fieldF w = 0x8#4 ∧ fieldN w ∈ [0x8#4, 0x9#4, 0xA#4, 0xB#4, 0xC#4, 0xD#4, 0xF#4]) ∨
     (fieldF w = 0xE#4 ∧ fieldNN w ∉ [0x9E#8, 0xA1#8]) ∨
     (fieldF w = 0xF#4 ∧
       fieldNN w ∉ [0x07#8, 0x0A#8, 0x15#8, 0x18#8, 0x1E#8, 0x29#8, 0x33#8, 0x55#8, 0x65#8])) →
    decode p w = .error (.noRow w)) ∧
  (∀ (w : Word) (i : Instr), decode .full w = .ok i → i.rowProfile = .full →
    decode .minimal w = .error (.fullOnly w))

/-- 30_encoding.md R306, R307: a word is an instruction of the profile exactly when it matches one of the profile's
rows. -/
def Obligations.DecodesExactlyTheRowsOfTheProfile : Prop :=
  ∀ (p : Profile) (w : Word), (∃ i, decode p w = .ok i) ↔ RowOf p w

/-- Twelve words written out from the encodings of section 3, of the nine families 0x0, 0x1, 0x4, 0x6, 0x8, 0xA, 0xD,
0xE and 0xF. -/
def Obligations.SampleWordsDecode : Prop :=
  decode .minimal 0x00E0#16 = .ok .cls ∧ decode .minimal 0x00EE#16 = .ok .ret ∧
  decode .minimal 0x1234#16 = .ok (.jp 0x234#12) ∧ decode .minimal 0x6A07#16 = .ok (.ldImm 0xA#4 0x07#8) ∧
  decode .minimal 0x8124#16 = .ok (.addReg 0x1#4 0x2#4) ∧ decode .minimal 0xA5C3#16 = .ok (.ldI 0x5C3#12) ∧
  decode .minimal 0xD3B7#16 = .ok (.drw 0x3#4 0xB#4 0x7#4) ∧ decode .minimal 0xF955#16 = .ok (.storeRegs 0x9#4) ∧
  decode .full 0x4E0F#16 = .ok (.sneImm 0xE#4 0x0F#8) ∧ decode .full 0xE29E#16 = .ok (.skp 0x2#4) ∧
  decode .full 0xF70A#16 = .ok (.ldVxK 0x7#4) ∧ decode .full 0x8CDE#16 = .ok (.shl 0xC#4 0xD#4)

/-! ### The step and its faults -/

/-- 30_encoding.md R320: a step fetches, decodes and executes; it clears the redraw report first. -/
def Obligations.StepRunsTheDecodedInstruction : Prop :=
  ∀ (s : State) (w : Word) (i : Instr), s.Fetches w → decode s.cfg.profile w = .ok i →
    step s = exec i (s.setRedraw false)

/-- 60_exceptions.md R703: the word fetched matches no instruction of the profile. -/
def Obligations.IllegalWordRaisesUnimplementedOpcode : Prop :=
  ∀ (s : State) (w : Word), s.Fetches w → ¬RowOf s.cfg.profile w → step s = .fault (.unimplementedOpcode w)

/-- 30_encoding.md R324, 60_exceptions.md R707: which fault a step reports, in the order fetch, decode, own check;
every other step completes. -/
def Obligations.StepFaultsInStepOrder : Prop :=
  (∀ s : State, memSize ≤ s.pc.toNat + 1 → step s = .fault (.memoryOutOfBounds (max s.pc.toNat memSize))) ∧
  (∀ (s : State) (w : Word), s.Fetches w → ¬RowOf s.cfg.profile w → step s = .fault (.unimplementedOpcode w)) ∧
  (∀ (s : State) (w : Word) (i : Instr), s.Fetches w → decode s.cfg.profile w = .ok i →
    (i = .ret → s.sp.val = 0 → step s = .fault .stackUnderflow) ∧
    (∀ nnn, i = .call nnn → s.sp.val = 16 → step s = .fault .stackOverflow) ∧
    (∀ x, i = .storeRegs x ∨ i = .loadRegs x → memSize ≤ s.i.toNat + x.toNat →
      step s = .fault (.memoryOutOfBounds (max s.i.toNat memSize))) ∧
    (∀ x y n, i = .drw x y n → 1 ≤ n.toNat → memSize ≤ s.i.toNat + n.toNat - 1 →
      step s = .fault (.memoryOutOfBounds (max s.i.toNat memSize))) ∧
    (∀ x, i = .ldB x → memSize ≤ s.i.toNat + 2 →
      step s = .fault (.memoryOutOfBounds (max s.i.toNat memSize))) ∧
    (¬(i = .ret ∧ s.sp.val = 0) → ¬((∃ nnn, i = .call nnn) ∧ s.sp.val = 16) →
      ¬(∃ x, (i = .storeRegs x ∨ i = .loadRegs x) ∧ memSize ≤ s.i.toNat + x.toNat) →
      ¬(∃ x y n, i = .drw x y n ∧ 1 ≤ n.toNat ∧ memSize ≤ s.i.toNat + n.toNat - 1) →
      ¬((∃ x, i = .ldB x) ∧ memSize ≤ s.i.toNat + 2) → ∃ t, step s = .next t))

/-- The model has a meaning for every instruction: no step is refused. -/
def Obligations.NoStepIsRefused : Prop := ∀ (s : State) (r : Refusal), step s ≠ .refused r

/-- 60_exceptions.md R705: a step that raises a fault changes no state. -/
def Obligations.FaultingStepChangesNothing : Prop :=
  ∀ (s : State) (f : Fault), step s = .fault f → s.command .step = (s, .stepped (faultResult f))

/-- 60_exceptions.md R708: the fault is raised again by every later step, whatever the host does short of a reset or
a load. -/
def Obligations.FaultIsRaisedAgain : Prop :=
  ∀ (s : State) (f : Fault) (cs : List Command), step s = .fault f → (∀ c ∈ cs, c.startsOver = false) →
    step (s.commands cs) = .fault f

/-- 60_exceptions.md R700, 10_state.md R129: the result word of a step, with the payload of its fault; the address
fits its 16 bits. -/
def Obligations.StepResultCarriesCodeAndPayload : Prop :=
  (∀ s t : State, step s = .next t →
    ∃ r, (s.command .step).2 = .stepped r ∧ r.ok = true ∧ r.redraw = t.redraw ∧ r.faultCode.toNat = 0) ∧
  (∀ (s : State) (f : Fault), step s = .fault f →
    ∃ r, (s.command .step).2 = .stepped r ∧ r.ok = false ∧
      (f = .stackUnderflow → r.faultCode.toNat = 1) ∧
      (f = .stackOverflow → r.faultCode.toNat = 2) ∧
      (∀ w, f = .unimplementedOpcode w → r.faultCode.toNat = 3 ∧ r.faultWord = w ∧ s.Fetches w) ∧
      (∀ a, f = .memoryOutOfBounds a → r.faultCode.toNat = 4 ∧ r.faultAddr.toNat = a ∧ memSize ≤ a))

/-- 30_encoding.md R327: the redraw report of a step that succeeds; a step that faults has none. -/
def Obligations.RedrawIsReportedByClsAndDrwOnly : Prop :=
  (∀ (s t : State) (w : Word), s.Fetches w → step s = .next t →
    ∃ r, (s.command .step).2 = .stepped r ∧ r.ok = true ∧
      (r.redraw = true ↔ w = 0x00E0#16 ∨ fieldF w = 0xD#4)) ∧
  (∀ (s : State) (f : Fault), step s = .fault f → ∃ r, (s.command .step).2 = .stepped r ∧ r.ok = false)

/-- 10_state.md R113: no later step reads the report of an earlier one, which State holds by the model's choice,
log 5. -/
def Obligations.StepIgnoresTheLastReport : Prop := ∀ (s : State) (b : Bool), step (s.setRedraw b) = step s

/-! ### Control transfer (40_control_flow.md) -/

/-- R410, R411, R412, R413. -/
def Obligations.SkipsMovePcByFourOrTwo : Prop :=
  ∀ (s : State) (x y : Reg) (nn : Byte),
    EncodedAs (.seImm x nn) .full (0x3#4 ++ x ++ nn) ∧ EncodedAs (.sneImm x nn) .full (0x4#4 ++ x ++ nn) ∧
    EncodedAs (.seReg x y) .full (0x5#4 ++ x ++ y ++ 0x0#4) ∧
    EncodedAs (.sneReg x y) .full (0x9#4 ++ x ++ y ++ 0x0#4) ∧
    (∀ (p : Profile) (n : Nibble), n ≠ 0x0#4 →
      decode p (0x5#4 ++ x ++ y ++ n) = .error (.noRow (0x5#4 ++ x ++ y ++ n)) ∧
      decode p (0x9#4 ++ x ++ y ++ n) = .error (.noRow (0x9#4 ++ x ++ y ++ n))) ∧
    exec (.seImm x nn) s = .next (s.setPc (s.pc + if s.getV x = nn then 4#16 else 2#16)) ∧
    exec (.sneImm x nn) s = .next (s.setPc (s.pc + if s.getV x ≠ nn then 4#16 else 2#16)) ∧
    exec (.seReg x y) s = .next (s.setPc (s.pc + if s.getV x = s.getV y then 4#16 else 2#16)) ∧
    exec (.sneReg x y) s = .next (s.setPc (s.pc + if s.getV x ≠ s.getV y then 4#16 else 2#16))

/-- R401, R414: the target is an integer sum that never wraps. -/
def Obligations.JumpsReplacePc : Prop :=
  ∀ (s : State) (nnn : Addr12),
    EncodedAs (.jp nnn) .minimal (0x1#4 ++ nnn) ∧ EncodedAs (.jpV0 nnn) .full (0xB#4 ++ nnn) ∧
    (∃ target : Word, exec (.jp nnn) s = .next (s.setPc target) ∧ target.toNat = nnn.toNat) ∧
    (∃ target : Word, exec (.jpV0 nnn) s = .next (s.setPc target) ∧
      target.toNat = nnn.toNat +
        (if s.cfg.jump0UsesVx = true then s.getV (nnn.extractLsb' 8 4) else s.getV 0x0#4).toNat)

/-- R402. -/
def Obligations.CallPushesTheReturnAddress : Prop :=
  ∀ (s : State) (nnn : Addr12),
    EncodedAs (.call nnn) .minimal (0x2#4 ++ nnn) ∧
    (s.sp.val < 16 → ∃ t, exec (.call nnn) s = .next t ∧
      (∀ k : Fin 16, t.stack.get k = if k.val = s.sp.val then s.pc + 2#16 else s.stack.get k) ∧
      t.sp.val = s.sp.val + 1 ∧ t.pc.toNat = nnn.toNat ∧ Frame s t (fun _ => False) [.stack] 0 0) ∧
    (s.sp.val = 16 → exec (.call nnn) s = .fault .stackOverflow)

/-- R400. -/
def Obligations.ReturnPopsIntoPc : Prop :=
  ∀ s : State,
    EncodedAs .ret .minimal 0x00EE#16 ∧
    (0 < s.sp.val → ∃ t, exec .ret s = .next t ∧ t.sp.val + 1 = s.sp.val ∧
      (∀ k : Fin 16, k.val = t.sp.val → t.pc = s.stack.get k) ∧
      t.stack = s.stack ∧ Frame s t (fun _ => False) [.stack] 0 0) ∧
    (s.sp.val = 0 → exec .ret s = .fault .stackUnderflow)

/-- R402 corner case: CALL followed by RET restores pc to the address after the CALL. -/
def Obligations.CallThenReturnComesBack : Prop :=
  ∀ (s : State) (nnn : Addr12), s.sp.val < 16 →
    ∃ t u, exec (.call nnn) s = .next t ∧ exec .ret t = .next u ∧ u.pc = s.pc + 2#16 ∧ u.sp = s.sp ∧
      ∀ k : Fin 16, k.val < s.sp.val → u.stack.get k = s.stack.get k

/-! ### Registers and ALU (41_alu.md) -/

/-- R450, R451. -/
def Obligations.ImmediateLoadAndAdd : Prop :=
  ∀ (s : State) (x : Reg) (nn : Byte),
    EncodedAs (.ldImm x nn) .minimal (0x6#4 ++ x ++ nn) ∧ EncodedAs (.addImm x nn) .minimal (0x7#4 ++ x ++ nn) ∧
    (∃ t, exec (.ldImm x nn) s = .next t ∧ t.getV x = nn ∧ t.pc = s.pc + 2#16 ∧ Frame s t (· = x) [] 0 0) ∧
    (∃ t, exec (.addImm x nn) s = .next t ∧ (t.getV x).toNat = ((s.getV x).toNat + nn.toNat) % 256 ∧
      t.pc = s.pc + 2#16 ∧ Frame s t (· = x) [] 0 0)

/-- R452, R453, R454, R455: bit by bit, VF not reset. -/
def Obligations.CopyAndBitwise : Prop :=
  ∀ (s : State) (x y : Reg),
    EncodedAs (.ldReg x y) .minimal (0x8#4 ++ x ++ y ++ 0x0#4) ∧
    EncodedAs (.orReg x y) .minimal (0x8#4 ++ x ++ y ++ 0x1#4) ∧
    EncodedAs (.andReg x y) .minimal (0x8#4 ++ x ++ y ++ 0x2#4) ∧
    EncodedAs (.xorReg x y) .minimal (0x8#4 ++ x ++ y ++ 0x3#4) ∧
    (∃ t, exec (.ldReg x y) s = .next t ∧ t.getV x = s.getV y ∧ t.pc = s.pc + 2#16 ∧ Frame s t (· = x) [] 0 0) ∧
    (∃ t, exec (.orReg x y) s = .next t ∧
      (∀ b, (t.getV x).getLsbD b = ((s.getV x).getLsbD b || (s.getV y).getLsbD b)) ∧
      t.pc = s.pc + 2#16 ∧ Frame s t (· = x) [] 0 0) ∧
    (∃ t, exec (.andReg x y) s = .next t ∧
      (∀ b, (t.getV x).getLsbD b = ((s.getV x).getLsbD b && (s.getV y).getLsbD b)) ∧
      t.pc = s.pc + 2#16 ∧ Frame s t (· = x) [] 0 0) ∧
    (∃ t, exec (.xorReg x y) s = .next t ∧
      (∀ b, (t.getV x).getLsbD b = ((s.getV x).getLsbD b ^^ (s.getV y).getLsbD b)) ∧
      t.pc = s.pc + 2#16 ∧ Frame s t (· = x) [] 0 0)

/-- R456: the carry in VF unless X = F, where the sum stays. -/
def Obligations.AddSetsTheCarry : Prop :=
  ∀ (s : State) (x y : Reg),
    EncodedAs (.addReg x y) .minimal (0x8#4 ++ x ++ y ++ 0x4#4) ∧
    ∃ t, exec (.addReg x y) s = .next t ∧ (t.getV x).toNat = ((s.getV x).toNat + (s.getV y).toNat) % 256 ∧
      (x ≠ vf → (t.getV vf).toNat = if 256 ≤ (s.getV x).toNat + (s.getV y).toNat then 1 else 0) ∧
      t.pc = s.pc + 2#16 ∧ Frame s t (fun r => r = x ∨ r = vf) [] 0 0

/-- R460, R462: VF is 1 exactly when there is no borrow, unless X = F, where the difference stays. -/
def Obligations.SubtractionsSetNoBorrow : Prop :=
  ∀ (s : State) (x y : Reg),
    EncodedAs (.subReg x y) .full (0x8#4 ++ x ++ y ++ 0x5#4) ∧
    EncodedAs (.subn x y) .full (0x8#4 ++ x ++ y ++ 0x7#4) ∧
    (∃ t, exec (.subReg x y) s = .next t ∧
      (t.getV x).toNat = ((s.getV x).toNat + 256 - (s.getV y).toNat) % 256 ∧
      (x ≠ vf → (t.getV vf).toNat = if (s.getV y).toNat ≤ (s.getV x).toNat then 1 else 0) ∧
      t.pc = s.pc + 2#16 ∧ Frame s t (fun r => r = x ∨ r = vf) [] 0 0) ∧
    (∃ t, exec (.subn x y) s = .next t ∧
      (t.getV x).toNat = ((s.getV y).toNat + 256 - (s.getV x).toNat) % 256 ∧
      (x ≠ vf → (t.getV vf).toNat = if (s.getV x).toNat ≤ (s.getV y).toNat then 1 else 0) ∧
      t.pc = s.pc + 2#16 ∧ Frame s t (fun r => r = x ∨ r = vf) [] 0 0)

/-- R461, R463, under either setting of SHIFT_USES_VY. -/
def Obligations.ShiftsByOneCaptureTheBit : Prop :=
  ∀ (s : State) (x y : Reg) (src : Byte), src = (if s.cfg.shiftUsesVy = true then s.getV y else s.getV x) →
    EncodedAs (.shr x y) .full (0x8#4 ++ x ++ y ++ 0x6#4) ∧
    EncodedAs (.shl x y) .full (0x8#4 ++ x ++ y ++ 0xE#4) ∧
    (∃ t, exec (.shr x y) s = .next t ∧ (t.getV x).toNat = src.toNat / 2 ∧
      (x ≠ vf → (t.getV vf).toNat = src.toNat % 2) ∧
      t.pc = s.pc + 2#16 ∧ Frame s t (fun r => r = x ∨ r = vf) [] 0 0) ∧
    (∃ t, exec (.shl x y) s = .next t ∧ (t.getV x).toNat = src.toNat * 2 % 256 ∧
      (x ≠ vf → (t.getV vf).toNat = src.toNat / 128) ∧
      t.pc = s.pc + 2#16 ∧ Frame s t (fun r => r = x ∨ r = vf) [] 0 0)

/-- R464: the effect for every value of the random byte, and that the instruction has it for the byte it draws. The
byte is a free value of the model's form (log 6); nothing here rests on a value of it. -/
def Obligations.RandomByteIsMasked : Prop :=
  ∀ (s : State) (x : Reg) (nn : Byte),
    EncodedAs (.rnd x nn) .full (0xC#4 ++ x ++ nn) ∧
    (∀ r : Byte, (rndWith r x nn s).getV x = r &&& nn ∧ (rndWith r x nn s).pc = s.pc + 2#16 ∧
      Frame s (rndWith r x nn s) (· = x) [] 0 0) ∧
    exec (.rnd x nn) s = .next (rndWith (Config.randomByte s.draws) x nn (s.setDraws (s.draws + 1)))

/-! ### Address register and memory (42_index_memory.md, 20_memory.md) -/

/-- R500, R501: FX1E wraps at 16 bits and writes no flag. -/
def Obligations.AddressRegisterLoadAndAdd : Prop :=
  ∀ (s : State) (x : Reg) (nnn : Addr12),
    EncodedAs (.ldI nnn) .minimal (0xA#4 ++ nnn) ∧ EncodedAs (.addI x) .minimal (0xF#4 ++ x ++ 0x1E#8) ∧
    (∃ t, exec (.ldI nnn) s = .next t ∧ t.i.toNat = nnn.toNat ∧ t.pc = s.pc + 2#16 ∧
      Frame s t (fun _ => False) [.i] 0 0) ∧
    (∃ t, exec (.addI x) s = .next t ∧ t.i.toNat = (s.i.toNat + (s.getV x).toNat) % 65536 ∧
      t.pc = s.pc + 2#16 ∧ Frame s t (fun _ => False) [.i] 0 0)

/-- R502. -/
def Obligations.StoreWritesRegistersAtI : Prop :=
  ∀ (s : State) (x : Reg),
    EncodedAs (.storeRegs x) .minimal (0xF#4 ++ x ++ 0x55#8) ∧
    (s.i.toNat + x.toNat < memSize → ∃ t, exec (.storeRegs x) s = .next t ∧
      (∀ k : Reg, k.toNat ≤ x.toNat → t.byteAt (s.i.toNat + k.toNat) = s.getV k) ∧
      t.pc = s.pc + 2#16 ∧ Frame s t (fun _ => False) [] s.base (x.toNat + 1)) ∧
    (memSize ≤ s.i.toNat + x.toNat →
      exec (.storeRegs x) s = .fault (.memoryOutOfBounds (max s.i.toNat memSize)))

/-- R503. -/
def Obligations.LoadReadsRegistersAtI : Prop :=
  ∀ (s : State) (x : Reg),
    EncodedAs (.loadRegs x) .minimal (0xF#4 ++ x ++ 0x65#8) ∧
    (s.i.toNat + x.toNat < memSize → ∃ t, exec (.loadRegs x) s = .next t ∧
      (∀ k : Reg, k.toNat ≤ x.toNat → t.getV k = s.byteAt (s.i.toNat + k.toNat)) ∧
      t.pc = s.pc + 2#16 ∧ Frame s t (fun k => k.toNat ≤ x.toNat) [] 0 0) ∧
    (memSize ≤ s.i.toNat + x.toNat →
      exec (.loadRegs x) s = .fault (.memoryOutOfBounds (max s.i.toNat memSize)))

/-- R503 corner case: a store and a load with the same X leave the register file as it was. -/
def Obligations.StoreThenLoadIsIdentityOnRegisters : Prop :=
  ∀ (s : State) (x : Reg), s.i.toNat + x.toNat < memSize →
    ∃ t u, exec (.storeRegs x) s = .next t ∧ exec (.loadRegs x) t = .next u ∧ u.v = s.v

/-- R510. -/
def Obligations.GlyphAddressOfLowNibble : Prop :=
  ∀ (s : State) (x : Reg),
    EncodedAs (.ldF x) .full (0xF#4 ++ x ++ 0x29#8) ∧
    ∃ t, exec (.ldF x) s = .next t ∧ t.i.toNat = s.cfg.fontBase.val + 5 * ((s.getV x).toNat % 16) ∧
      t.pc = s.pc + 2#16 ∧ Frame s t (fun _ => False) [.i] 0 0

/-- R511. -/
def Obligations.BcdStoresThreeDigits : Prop :=
  ∀ (s : State) (x : Reg),
    EncodedAs (.ldB x) .full (0xF#4 ++ x ++ 0x33#8) ∧
    (s.i.toNat + 2 < memSize → ∃ t, exec (.ldB x) s = .next t ∧
      (t.byteAt s.i.toNat).toNat = (s.getV x).toNat / 100 ∧
      (t.byteAt (s.i.toNat + 1)).toNat = (s.getV x).toNat / 10 % 10 ∧
      (t.byteAt (s.i.toNat + 2)).toNat = (s.getV x).toNat % 10 ∧
      t.pc = s.pc + 2#16 ∧ Frame s t (fun _ => False) [] s.base 3) ∧
    (memSize ≤ s.i.toNat + 2 → exec (.ldB x) s = .fault (.memoryOutOfBounds (max s.i.toNat memSize)))

/-- 20_memory.md R203, R204. -/
def Obligations.ByteAccessesAreBounded : Prop :=
  ∀ (s : State) (a : Nat) (b : Byte),
    (memSize ≤ a → s.memRead a = .error (.memoryOutOfBounds a) ∧ s.memWrite a b = .error (.memoryOutOfBounds a)) ∧
    (a < memSize → s.memRead a = .ok (s.byteAt a) ∧
      ∃ t, s.memWrite a b = .ok t ∧ t.byteAt a = b ∧ (∀ a', a' ≠ a → t.byteAt a' = s.byteAt a') ∧
        t = s.setMem t.mem)

/-- 20_memory.md R217, 70_reset_and_hazards.md R811: what FX55 or FX33 stores at pc + 2 is fetched by the next
step. -/
def Obligations.StoredCodeIsFetchedNext : Prop :=
  ∀ (s t : State) (x : Reg), s.i.toNat = s.pc.toNat + 2 →
    (1 ≤ x.toNat → exec (.storeRegs x) s = .next t → t.Fetches (wordOfBytes (s.getV 0x0#4) (s.getV 0x1#4))) ∧
    (exec (.ldB x) s = .next t →
      t.Fetches (BitVec.ofNat 16 ((s.getV x).toNat / 100 * 256 + (s.getV x).toNat / 10 % 10)))

/-- Two canonical memories with the same cells are the same data (the model's form of M, log 7). -/
def Obligations.EqualCellsAreEqualMemory : Prop :=
  ∀ (c : Config) (m m' : Memory), m.wf c → m'.wf c → (∀ a, a < memSize → m.get c a = m'.get c a) → m = m'

/-! ### Display (43_display.md) -/

/-- R550. -/
def Obligations.ClsClearsTheScreen : Prop :=
  ∀ s : State,
    EncodedAs .cls .minimal 0x00E0#16 ∧
    ∃ t, exec .cls s = .next t ∧ (∀ idx, t.fb.get idx = false) ∧ t.framebuffer = List.replicate 2048 0x00#8 ∧
      t.redraw = true ∧ t.pc = s.pc + 2#16 ∧ Frame s t (fun _ => False) [.screen, .redraw] 0 0

/-- R551 to R555: exactly the pixels that a set bit lands on are inverted, VF says whether one of them was on, and
the check covers every row. -/
def Obligations.DrwInvertsTheCoveredPixels : Prop :=
  ∀ (s : State) (x y : Reg) (n : Nibble),
    EncodedAs (.drw x y n) .minimal (0xD#4 ++ x ++ y ++ n) ∧
    (n.toNat = 0 ∨ s.i.toNat + n.toNat - 1 < memSize → ∃ t, exec (.drw x y n) s = .next t ∧
      (∀ idx, s.Covers x y n idx → t.fb.get idx = !s.fb.get idx) ∧
      (∀ idx, ¬s.Covers x y n idx → t.fb.get idx = s.fb.get idx) ∧
      ((∃ idx, s.Covers x y n idx ∧ s.fb.get idx = true) → t.getV vf = 0x01#8) ∧
      ((∀ idx, s.Covers x y n idx → s.fb.get idx = false) → t.getV vf = 0x00#8) ∧
      t.redraw = true ∧ t.pc = s.pc + 2#16 ∧ Frame s t (· = vf) [.screen, .redraw] 0 0) ∧
    (1 ≤ n.toNat → memSize ≤ s.i.toNat + n.toNat - 1 →
      exec (.drw x y n) s = .fault (.memoryOutOfBounds (max s.i.toNat memSize)))

/-- R556: the same sprite drawn twice at the same origin restores the screen, and the second draw reports a collision
exactly when the first turned a pixel on. -/
def Obligations.DrawingTwiceRestoresTheScreen : Prop :=
  ∀ (s t : State) (x y : Reg) (n : Nibble), exec (.drw x y n) s = .next t →
    t.spriteX x = s.spriteX x → t.spriteY y = s.spriteY y →
    ∃ u, exec (.drw x y n) t = .next u ∧ u.fb = s.fb ∧
      (u.getV vf = 0x01#8 ↔ ∃ idx, s.fb.get idx = false ∧ t.fb.get idx = true)

/-! ### Timers and input (44_timers_input.md, 60_exceptions.md R720) -/

/-- R600, R601, R602. -/
def Obligations.TimerTransfers : Prop :=
  ∀ (s : State) (x : Reg),
    EncodedAs (.ldVxDt x) .full (0xF#4 ++ x ++ 0x07#8) ∧ EncodedAs (.ldDtVx x) .full (0xF#4 ++ x ++ 0x15#8) ∧
    EncodedAs (.ldStVx x) .full (0xF#4 ++ x ++ 0x18#8) ∧
    (∃ t, exec (.ldVxDt x) s = .next t ∧ t.getV x = s.dt ∧ t.pc = s.pc + 2#16 ∧ Frame s t (· = x) [] 0 0) ∧
    (∃ t, exec (.ldDtVx x) s = .next t ∧ t.dt = s.getV x ∧ t.pc = s.pc + 2#16 ∧
      Frame s t (fun _ => False) [.dt] 0 0) ∧
    (∃ t, exec (.ldStVx x) s = .next t ∧ t.st = s.getV x ∧ (t.soundActive = true ↔ s.getV x ≠ 0x00#8) ∧
      t.pc = s.pc + 2#16 ∧ Frame s t (fun _ => False) [.st] 0 0)

/-- R603. -/
def Obligations.WaitForKeyTakesTheLatch : Prop :=
  ∀ (s : State) (x : Reg),
    EncodedAs (.ldVxK x) .full (0xF#4 ++ x ++ 0x0A#8) ∧
    (s.key = none → exec (.ldVxK x) s = .next s) ∧
    (∀ k, s.key = some k → ∃ t, exec (.ldVxK x) s = .next t ∧ (t.getV x).toNat = k.toNat ∧ t.key = none ∧
      t.pc = s.pc + 2#16 ∧ Frame s t (· = x) [.key] 0 0)

/-- R604, R605: the whole byte is compared, and the latch is cleared whether or not the key matches. -/
def Obligations.KeySkipsConsumeTheLatch : Prop :=
  ∀ (s : State) (x : Reg),
    EncodedAs (.skp x) .full (0xE#4 ++ x ++ 0x9E#8) ∧ EncodedAs (.sknp x) .full (0xE#4 ++ x ++ 0xA1#8) ∧
    (∃ t, exec (.skp x) s = .next t ∧
      t.pc = s.pc + (if s.key.map BitVec.toNat = some (s.getV x).toNat then 4#16 else 2#16) ∧
      t.key = none ∧ Frame s t (fun _ => False) [.key] 0 0) ∧
    (∃ t, exec (.sknp x) s = .next t ∧
      t.pc = s.pc + (if s.key.map BitVec.toNat = some (s.getV x).toNat then 2#16 else 4#16) ∧
      t.key = none ∧ Frame s t (fun _ => False) [.key] 0 0)

/-- R603, 70_reset_and_hazards.md R812: a waiting FX0A completes at the first step after `set_key`. -/
def Obligations.SetKeyEndsTheWait : Prop :=
  ∀ (s : State) (x : Reg) (code : Nibble), s.cfg.profile = .full → s.Fetches (0xF#4 ++ x ++ 0x0A#8) →
    ∃ t, step (s.command (.setKey code)).1 = .next t ∧ (t.getV x).toNat = code.toNat ∧ t.key = none ∧
      t.pc = s.pc + 2#16

/-- 60_exceptions.md R720: a tick decrements each nonzero timer and nothing else; a step decrements none. -/
def Obligations.TickAloneDecrementsTheTimers : Prop :=
  (∀ s : State, ∃ d e : Byte, s.command .tick = ((s.setDt d).setSt e, .ok) ∧
    d.toNat = s.dt.toNat - 1 ∧ e.toNat = s.st.toNat - 1) ∧
  (∀ (i : Instr) (s t : State), exec i s = .next t →
    (t.dt = s.dt ∨ ∃ x, i = .ldDtVx x ∧ t.dt = s.getV x) ∧ (t.st = s.st ∨ ∃ x, i = .ldStVx x ∧ t.st = s.getV x))

/-! ### The whole machine -/

/-- What each instruction leaves unchanged when it completes: `writtenRegs`, `writtenParts` and `storedBytes` name
all it may write beside pc. The parameters, the redraw report and the count of draws are the model's own fields
(log 1, log 5, log 6). -/
def Obligations.EveryInstructionKeepsItsFrame : Prop :=
  ∀ (i : Instr) (s t : State), exec i s = .next t → Frame s t (writtenRegs i) (writtenParts i) s.base (storedBytes i)

/-- 10_state.md R101: who writes VF. -/
def Obligations.OnlyFlagInstructionsWriteVfUnnamed : Prop :=
  ∀ (i : Instr) (s t : State), exec i s = .next t → t.getV vf ≠ s.getV vf →
    (∃ x y, i = .addReg x y ∨ i = .subReg x y ∨ i = .shr x y ∨ i = .subn x y ∨ i = .shl x y) ∨
    (∃ x y n, i = .drw x y n) ∨
    (∃ nn, i = .ldImm vf nn ∨ i = .addImm vf nn ∨ i = .rnd vf nn) ∨
    (∃ y, i = .ldReg vf y ∨ i = .orReg vf y ∨ i = .andReg vf y ∨ i = .xorReg vf y) ∨
    i = .ldVxDt vf ∨ i = .ldVxK vf ∨ i = .loadRegs vf

/-- 10_state.md R107, R110, 30_encoding.md R325: under MINIMAL a step neither reads nor writes the timers, the latch
and the random input, whose counter is the model's own (log 6). -/
def Obligations.MinimalStepIgnoresTimersLatchAndRandom : Prop :=
  ∀ (s : State) (d e : Byte) (k : Option Nibble) (n : Nat), s.cfg.profile = .minimal →
    step ((((s.setDt d).setSt e).setKey k).setDraws n) = match step s with
      | .next t => .next ((((t.setDt d).setSt e).setKey k).setDraws n)
      | .fault f => .fault f
      | .refused r => .refused r

/-- 00_scope.md R2: FULL is MINIMAL plus further instructions, so it runs what MINIMAL runs, with the same effect. -/
def Obligations.FullRunsWhatMinimalRuns : Prop :=
  ∀ s t : State, s.cfg.profile = .minimal → step s = .next t →
    step (s.setProfile .full) = .next (t.setProfile .full)

/-- 70_reset_and_hazards.md R805 (b), (c). -/
def Obligations.SelfJumpAndEmptyWaitStandStill : Prop :=
  (∀ (s : State) (nnn : Addr12), s.Fetches (0x1#4 ++ nnn) → nnn.toNat = s.pc.toNat → s.StandsStill) ∧
  (∀ (s : State) (x : Reg), s.cfg.profile = .full → s.Fetches (0xF#4 ++ x ++ 0x0A#8) → s.key = none →
    s.StandsStill)

/-! ### Host commands (10_state.md, 70_reset_and_hazards.md) -/

/-- 70_reset_and_hazards.md R802, R803: the bound, and a full reset followed by the copy. -/
def Obligations.LoadProgramResetsAndCopies : Prop :=
  ∀ (s : State) (bytes : List Byte),
    (4096 - 0x200 < bytes.length → s.command (.loadProgram bytes) = (s, .loadError)) ∧
    (bytes.length ≤ 4096 - 0x200 → ∃ t, s.command (.loadProgram bytes) = (t, .ok) ∧ t.ElementsAtReset ∧
      t.cfg = s.cfg ∧ (∀ j, j < bytes.length → t.byteAt (0x200 + j) = bytes.getD j 0x00#8) ∧
      ∀ a, a < 0x200 ∨ 0x200 + bytes.length ≤ a → t.byteAt a = (s.command .reset).1.byteAt a)

/-- 10_state.md R131: the key commands change the latch and nothing else. -/
def Obligations.KeyCommandsChangeTheLatchOnly : Prop :=
  ∀ (s : State) (code : Nibble), s.command (.setKey code) = (s.setKey (some code), .ok) ∧
    s.command .clearKey = (s.setKey none, .ok)

/-- The host's probe runs exactly the word it is given, at every pc that can be fetched at (the model's choice,
log 2 and log 3). -/
def Obligations.PlacedWordIsRunNext : Prop :=
  ∀ (s : State) (w : Word) (i : Instr), s.pc.toNat + 1 < memSize → decode .full w = .ok i →
    decodeTableWord 16 w.toNat = some i ∧
    step (s.withFetchWord 16 w.toNat) = exec i ((s.withFetchWord 16 w.toNat).setRedraw false)

/-! ### Assembly syntax (30_encoding.md R310, R311) -/

/-- In the model's token form of the syntax (log 17): a mnemonic line assembles to exactly one word, that of its
instruction; operands out of the ranges of R310 and R311 are refused; `DB` emits its bytes in order. -/
def Obligations.AsmLineIsOneWord : Prop :=
  (∀ (m : Mnemonic) (ops : List Operand) (bytes : List Byte), assembleLine (.op m ops) = some bytes →
    bytes.length = 2 ∧ ∃ i, assembleInstr m ops = some i ∧ decodeBytes .full bytes = .ok (i, [])) ∧
  (∀ (m : Mnemonic) (ops : List Operand) (n : Nat), .num n ∈ ops → 0x1000 ≤ n → assembleInstr m ops = none) ∧
  (∀ (m : Mnemonic) (ops : List Operand) (x n : Nat), .v x ∈ ops → .num n ∈ ops → 0x100 ≤ n → m ≠ .JP →
    assembleInstr m ops = none) ∧
  (∀ (ops : List Operand) (n : Nat), .num n ∈ ops → 0x10 ≤ n → assembleInstr .DRW ops = none) ∧
  (∀ (m : Mnemonic) (ops : List Operand) (x : Nat), .v x ∈ ops → 16 ≤ x → assembleInstr m ops = none) ∧
  (∀ bytes : List Byte, assembleLine (.db (bytes.map BitVec.toNat)) = some bytes) ∧
  (∀ bytes : List Nat, (∃ n ∈ bytes, 0x100 ≤ n) → assembleLine (.db bytes) = none)

/-- Every instruction can be written in the syntax of R310, in the model's token form (log 17). -/
def Obligations.EveryInstructionHasAsmSyntax : Prop := ∀ i : Instr, ∃ m ops, assembleInstr m ops = some i
end

