-- ==== Sys2Proof/Laws/Decode.lean ====
section
/-! SUPPORT. The fields of an assembled word, format by format (30_encoding.md R303). -/

namespace Sys2Proof

variable (f x y n : BitVec 4) (k : BitVec 8) (a : BitVec 12)

/-! ### Format A: family, address -/

@[simp] theorem fieldF_formatA : fieldF (f ++ a) = f := by
  ext i h; simp only [fieldF, BitVec.getElem_extractLsb', BitVec.getLsbD_append]; grind
@[simp] theorem fieldNNN_formatA : fieldNNN (f ++ a) = a := by
  ext i h; simp only [fieldNNN, BitVec.getElem_extractLsb', BitVec.getLsbD_append]; grind

/-! ### Format XK: family, register, byte (and XS, whose byte is fixed) -/

@[simp] theorem fieldF_formatXK : fieldF (f ++ x ++ k) = f := by
  ext i h; simp only [fieldF, BitVec.getElem_extractLsb', BitVec.getLsbD_append]; grind
@[simp] theorem fieldX_formatXK : fieldX (f ++ x ++ k) = x := by
  ext i h; simp only [fieldX, BitVec.getElem_extractLsb', BitVec.getLsbD_append]; grind
@[simp] theorem fieldNN_formatXK : fieldNN (f ++ x ++ k) = k := by
  ext i h; simp only [fieldNN, BitVec.getElem_extractLsb', BitVec.getLsbD_append]; grind

/-! ### Format XYN: family, two registers, nibble (and XYS, whose nibble is fixed) -/

@[simp] theorem fieldF_formatXYN : fieldF (f ++ x ++ y ++ n) = f := by
  ext i h; simp only [fieldF, BitVec.getElem_extractLsb', BitVec.getLsbD_append]; grind
@[simp] theorem fieldX_formatXYN : fieldX (f ++ x ++ y ++ n) = x := by
  ext i h; simp only [fieldX, BitVec.getElem_extractLsb', BitVec.getLsbD_append]; grind
@[simp] theorem fieldY_formatXYN : fieldY (f ++ x ++ y ++ n) = y := by
  ext i h; simp only [fieldY, BitVec.getElem_extractLsb', BitVec.getLsbD_append]; grind
@[simp] theorem fieldN_formatXYN : fieldN (f ++ x ++ y ++ n) = n := by
  ext i h; simp only [fieldN, BitVec.getElem_extractLsb', BitVec.getLsbD_append]; grind

/-! ### Masks (R309) -/

theorem append_and_append {l r : Nat} (a c : BitVec l) (b d : BitVec r) :
    (a ++ b) &&& (c ++ d) = (a &&& c) ++ (b &&& d) := by
  ext i h; simp only [BitVec.getElem_and, BitVec.getElem_append]; grind

theorem mask_formatA : (f ++ a) &&& 0xF000#16 = f ++ 0#12 :=
  (append_and_append f 0xF#4 a 0#12).trans (by rw [BitVec.and_zero]; congr 1; exact BitVec.and_allOnes)

theorem mask_formatXK : (f ++ x ++ k) &&& 0xF000#16 = f ++ 0#4 ++ 0#8 :=
  (append_and_append (f ++ x) (0xF#4 ++ 0#4) k 0#8).trans (by
    rw [append_and_append, BitVec.and_zero, BitVec.and_zero]; congr 2; exact BitVec.and_allOnes)

theorem mask_formatXS : (f ++ x ++ k) &&& 0xF0FF#16 = f ++ 0#4 ++ k :=
  (append_and_append (f ++ x) (0xF#4 ++ 0#4) k 0xFF#8).trans (by
    rw [append_and_append, BitVec.and_zero]
    congr 1
    · congr 1; exact BitVec.and_allOnes
    · exact BitVec.and_allOnes)

theorem mask_formatXYS : (f ++ x ++ y ++ n) &&& 0xF00F#16 = f ++ 0#4 ++ 0#4 ++ n :=
  (append_and_append (f ++ x ++ y) (0xF#4 ++ 0#4 ++ 0#4) n 0xF#4).trans (by
    rw [append_and_append, append_and_append, BitVec.and_zero, BitVec.and_zero]
    congr 1
    · congr 2; exact BitVec.and_allOnes
    · exact BitVec.and_allOnes)

theorem mask_formatXYN : (f ++ x ++ y ++ n) &&& 0xF000#16 = f ++ 0#4 ++ 0#4 ++ 0#4 :=
  (append_and_append (f ++ x ++ y) (0xF#4 ++ 0#4 ++ 0#4) n 0#4).trans (by
    rw [append_and_append, append_and_append, BitVec.and_zero, BitVec.and_zero, BitVec.and_zero]
    congr 3; exact BitVec.and_allOnes)

/-! ### Bytes in memory order -/

theorem wordOfBytes_hi (hi lo : Byte) : (wordOfBytes hi lo).extractLsb' 8 8 = hi := by
  ext i h; simp only [wordOfBytes, BitVec.getElem_extractLsb', BitVec.getLsbD_append]; grind
theorem wordOfBytes_lo (hi lo : Byte) : (wordOfBytes hi lo).extractLsb' 0 8 = lo := by
  ext i h; simp only [wordOfBytes, BitVec.getElem_extractLsb', BitVec.getLsbD_append]; grind

/-! ### A word is its fields, in each format -/

theorem splitXYN (w : Word) : w = fieldF w ++ fieldX w ++ fieldY w ++ fieldN w := by
  ext i h; simp only [fieldF, fieldX, fieldY, fieldN]; grind
theorem splitXK (w : Word) : w = fieldF w ++ fieldX w ++ fieldNN w := by
  ext i h; simp only [fieldF, fieldX, fieldNN]; grind
theorem splitA (w : Word) : w = fieldF w ++ fieldNNN w := by
  ext i h; simp only [fieldF, fieldNNN]; grind

/-- Splitting a word into its bytes and putting them together again gives the word. -/
theorem wordOfBytes_extract (w : Word) : wordOfBytes (w.extractLsb' 8 8) (w.extractLsb' 0 8) = w := by
  ext i h; rw [wordOfBytes]; grind

/-- `decode` finds the row and then asks the profile. -/
theorem decode_eq_ok {p : Profile} {w : Word} {i : Instr} :
    decode p w = .ok i ↔ decodeRow w = some i ∧ i.wf p = true := by
  unfold decode
  split <;> rename_i h
  · simp [h]
  · split <;> grind

end Sys2Proof
end

