-- ==== Sys2Proof/Laws/Memory.lean ====
section
/-! SUPPORT. The memory array: a read after a write, and the canonical form kept by every write. -/

namespace Sys2Proof.Machine

variable {c : Config} {m : Memory} {a b : Nat} {v : Byte}

theorem Memory.get_insert : (Memory.insert a v m).get c b = if b = a then v else m.get c b := by
  induction m with
  | nil => simp only [Memory.insert, Memory.get]; grind
  | cons p m ih =>
    obtain ⟨k, w⟩ := p
    simp only [Memory.insert]
    split
    · simp only [Memory.get]; grind
    · split
      · simp only [Memory.get]; grind
      · simp only [Memory.get, ih]; grind

theorem Memory.get_drop : (Memory.drop a m).get c b = if b = a then c.resetByte a else m.get c b := by
  induction m with
  | nil => simp only [Memory.drop, Memory.get]; grind
  | cons p m ih =>
    obtain ⟨k, w⟩ := p
    simp only [Memory.drop]
    split
    · rw [ih, Memory.get]; grind
    · simp only [Memory.get, ih]; grind

/-- A read after a write: the byte written at its address, and what stood there everywhere else. -/
theorem Memory.get_set : (m.set c a v).get c b = if b = a then v else m.get c b := by
  unfold Memory.set
  split
  · rw [Memory.get_drop]; split <;> simp_all
  · exact Memory.get_insert

theorem Memory.mem_drop {p : Host.Cell} (h : p ∈ Memory.drop a m) : p ∈ m := by
  induction m with
  | nil => exact h
  | cons q m ih =>
    obtain ⟨k, w⟩ := q
    simp only [Memory.drop] at h
    split at h
    · exact List.mem_cons_of_mem _ (ih h)
    · rcases List.mem_cons.mp h with rfl | h
      · exact List.mem_cons_self
      · exact List.mem_cons_of_mem _ (ih h)

theorem Memory.mem_insert {p : Host.Cell} (h : p ∈ Memory.insert a v m) : p = (a, v) ∨ p ∈ m := by
  induction m with
  | nil => simpa [Memory.insert] using h
  | cons q m ih =>
    obtain ⟨k, w⟩ := q
    simp only [Memory.insert] at h
    split at h
    · simpa using h
    · split at h
      · rcases List.mem_cons.mp h with rfl | h
        · exact .inl rfl
        · exact .inr (List.mem_cons_of_mem _ h)
      · rcases List.mem_cons.mp h with rfl | h
        · exact .inr List.mem_cons_self
        · exact (ih h).imp_right (List.mem_cons_of_mem _)

theorem Memory.pairwise_drop (h : m.Pairwise fun p q => p.1 < q.1) :
    (Memory.drop a m).Pairwise fun p q => p.1 < q.1 := by
  induction m with
  | nil => exact h
  | cons q m ih =>
    obtain ⟨k, w⟩ := q
    obtain ⟨hk, hm⟩ := List.pairwise_cons.mp h
    simp only [Memory.drop]
    split
    · exact ih hm
    · exact List.pairwise_cons.mpr ⟨fun p hp => hk p (Memory.mem_drop hp), ih hm⟩

theorem Memory.pairwise_insert (h : m.Pairwise fun p q => p.1 < q.1) :
    (Memory.insert a v m).Pairwise fun p q => p.1 < q.1 := by
  induction m with
  | nil => simp [Memory.insert]
  | cons q m ih =>
    obtain ⟨k, w⟩ := q
    obtain ⟨hk, hm⟩ := List.pairwise_cons.mp h
    simp only [Memory.insert]
    split
    · refine List.pairwise_cons.mpr ⟨fun p hp => ?_, h⟩
      rcases List.mem_cons.mp hp with rfl | hp
      · assumption
      · have := hk p hp; simp only at this ⊢; omega
    · split
      · subst k; exact List.pairwise_cons.mpr ⟨hk, hm⟩
      · refine List.pairwise_cons.mpr ⟨fun p hp => ?_, ih hm⟩
        rcases Memory.mem_insert hp with rfl | hp
        · simp only; omega
        · exact hk p hp

/-- Every write keeps the canonical form. -/
theorem Memory.wf_set (h : m.wf c) (ha : a < memSize) : (m.set c a v).wf c := by
  unfold Memory.set
  split
  · exact ⟨Memory.pairwise_drop h.1, fun p hp => h.2 p (Memory.mem_drop hp)⟩
  · refine ⟨Memory.pairwise_insert h.1, fun p hp => ?_⟩
    rcases Memory.mem_insert hp with rfl | hp
    · exact ⟨ha, ‹_›⟩
    · exact h.2 p hp

/-- Memory that lists nothing is canonical. -/
theorem Memory.wf_nil : Memory.wf c [] := ⟨List.Pairwise.nil, by simp⟩

end Sys2Proof.Machine
end

