-- ==== Sys2Proof/Laws/State.lean ====
section
/-! SUPPORT. One lemma per field per update of the state, so that no proof unfolds a record update. -/

namespace Sys2Proof.Machine


/-! ### setI -/

@[simp] theorem State.setI_cfg (s : State) (a : Word) : (s.setI a).cfg = s.cfg := rfl
@[simp] theorem State.setI_v (s : State) (a : Word) : (s.setI a).v = s.v := rfl
@[simp] theorem State.setI_i (s : State) (a : Word) : (s.setI a).i = a := rfl
@[simp] theorem State.setI_pc (s : State) (a : Word) : (s.setI a).pc = s.pc := rfl
@[simp] theorem State.setI_sp (s : State) (a : Word) : (s.setI a).sp = s.sp := rfl
@[simp] theorem State.setI_stack (s : State) (a : Word) : (s.setI a).stack = s.stack := rfl
@[simp] theorem State.setI_dt (s : State) (a : Word) : (s.setI a).dt = s.dt := rfl
@[simp] theorem State.setI_st (s : State) (a : Word) : (s.setI a).st = s.st := rfl
@[simp] theorem State.setI_fb (s : State) (a : Word) : (s.setI a).fb = s.fb := rfl
@[simp] theorem State.setI_key (s : State) (a : Word) : (s.setI a).key = s.key := rfl
@[simp] theorem State.setI_mem (s : State) (a : Word) : (s.setI a).mem = s.mem := rfl
@[simp] theorem State.setI_redraw (s : State) (a : Word) : (s.setI a).redraw = s.redraw := rfl
@[simp] theorem State.setI_draws (s : State) (a : Word) : (s.setI a).draws = s.draws := rfl
@[simp] theorem State.setI_getV (s : State) (a : Word) (y : Reg) : (s.setI a).getV y = s.getV y := rfl
@[simp] theorem State.setI_byteAt (s : State) (a : Word) (a' : Nat) : (s.setI a).byteAt a' = s.byteAt a' := rfl

/-! ### setPc -/

@[simp] theorem State.setPc_cfg (s : State) (a : Word) : (s.setPc a).cfg = s.cfg := rfl
@[simp] theorem State.setPc_v (s : State) (a : Word) : (s.setPc a).v = s.v := rfl
@[simp] theorem State.setPc_i (s : State) (a : Word) : (s.setPc a).i = s.i := rfl
@[simp] theorem State.setPc_pc (s : State) (a : Word) : (s.setPc a).pc = a := rfl
@[simp] theorem State.setPc_sp (s : State) (a : Word) : (s.setPc a).sp = s.sp := rfl
@[simp] theorem State.setPc_stack (s : State) (a : Word) : (s.setPc a).stack = s.stack := rfl
@[simp] theorem State.setPc_dt (s : State) (a : Word) : (s.setPc a).dt = s.dt := rfl
@[simp] theorem State.setPc_st (s : State) (a : Word) : (s.setPc a).st = s.st := rfl
@[simp] theorem State.setPc_fb (s : State) (a : Word) : (s.setPc a).fb = s.fb := rfl
@[simp] theorem State.setPc_key (s : State) (a : Word) : (s.setPc a).key = s.key := rfl
@[simp] theorem State.setPc_mem (s : State) (a : Word) : (s.setPc a).mem = s.mem := rfl
@[simp] theorem State.setPc_redraw (s : State) (a : Word) : (s.setPc a).redraw = s.redraw := rfl
@[simp] theorem State.setPc_draws (s : State) (a : Word) : (s.setPc a).draws = s.draws := rfl
@[simp] theorem State.setPc_getV (s : State) (a : Word) (y : Reg) : (s.setPc a).getV y = s.getV y := rfl
@[simp] theorem State.setPc_byteAt (s : State) (a : Word) (a' : Nat) : (s.setPc a).byteAt a' = s.byteAt a' := rfl

/-! ### setDt -/

@[simp] theorem State.setDt_cfg (s : State) (a : Byte) : (s.setDt a).cfg = s.cfg := rfl
@[simp] theorem State.setDt_v (s : State) (a : Byte) : (s.setDt a).v = s.v := rfl
@[simp] theorem State.setDt_i (s : State) (a : Byte) : (s.setDt a).i = s.i := rfl
@[simp] theorem State.setDt_pc (s : State) (a : Byte) : (s.setDt a).pc = s.pc := rfl
@[simp] theorem State.setDt_sp (s : State) (a : Byte) : (s.setDt a).sp = s.sp := rfl
@[simp] theorem State.setDt_stack (s : State) (a : Byte) : (s.setDt a).stack = s.stack := rfl
@[simp] theorem State.setDt_dt (s : State) (a : Byte) : (s.setDt a).dt = a := rfl
@[simp] theorem State.setDt_st (s : State) (a : Byte) : (s.setDt a).st = s.st := rfl
@[simp] theorem State.setDt_fb (s : State) (a : Byte) : (s.setDt a).fb = s.fb := rfl
@[simp] theorem State.setDt_key (s : State) (a : Byte) : (s.setDt a).key = s.key := rfl
@[simp] theorem State.setDt_mem (s : State) (a : Byte) : (s.setDt a).mem = s.mem := rfl
@[simp] theorem State.setDt_redraw (s : State) (a : Byte) : (s.setDt a).redraw = s.redraw := rfl
@[simp] theorem State.setDt_draws (s : State) (a : Byte) : (s.setDt a).draws = s.draws := rfl
@[simp] theorem State.setDt_getV (s : State) (a : Byte) (y : Reg) : (s.setDt a).getV y = s.getV y := rfl
@[simp] theorem State.setDt_byteAt (s : State) (a : Byte) (a' : Nat) : (s.setDt a).byteAt a' = s.byteAt a' := rfl

/-! ### setSt -/

@[simp] theorem State.setSt_cfg (s : State) (a : Byte) : (s.setSt a).cfg = s.cfg := rfl
@[simp] theorem State.setSt_v (s : State) (a : Byte) : (s.setSt a).v = s.v := rfl
@[simp] theorem State.setSt_i (s : State) (a : Byte) : (s.setSt a).i = s.i := rfl
@[simp] theorem State.setSt_pc (s : State) (a : Byte) : (s.setSt a).pc = s.pc := rfl
@[simp] theorem State.setSt_sp (s : State) (a : Byte) : (s.setSt a).sp = s.sp := rfl
@[simp] theorem State.setSt_stack (s : State) (a : Byte) : (s.setSt a).stack = s.stack := rfl
@[simp] theorem State.setSt_dt (s : State) (a : Byte) : (s.setSt a).dt = s.dt := rfl
@[simp] theorem State.setSt_st (s : State) (a : Byte) : (s.setSt a).st = a := rfl
@[simp] theorem State.setSt_fb (s : State) (a : Byte) : (s.setSt a).fb = s.fb := rfl
@[simp] theorem State.setSt_key (s : State) (a : Byte) : (s.setSt a).key = s.key := rfl
@[simp] theorem State.setSt_mem (s : State) (a : Byte) : (s.setSt a).mem = s.mem := rfl
@[simp] theorem State.setSt_redraw (s : State) (a : Byte) : (s.setSt a).redraw = s.redraw := rfl
@[simp] theorem State.setSt_draws (s : State) (a : Byte) : (s.setSt a).draws = s.draws := rfl
@[simp] theorem State.setSt_getV (s : State) (a : Byte) (y : Reg) : (s.setSt a).getV y = s.getV y := rfl
@[simp] theorem State.setSt_byteAt (s : State) (a : Byte) (a' : Nat) : (s.setSt a).byteAt a' = s.byteAt a' := rfl

/-! ### setFb -/

@[simp] theorem State.setFb_cfg (s : State) (a : Framebuffer) : (s.setFb a).cfg = s.cfg := rfl
@[simp] theorem State.setFb_v (s : State) (a : Framebuffer) : (s.setFb a).v = s.v := rfl
@[simp] theorem State.setFb_i (s : State) (a : Framebuffer) : (s.setFb a).i = s.i := rfl
@[simp] theorem State.setFb_pc (s : State) (a : Framebuffer) : (s.setFb a).pc = s.pc := rfl
@[simp] theorem State.setFb_sp (s : State) (a : Framebuffer) : (s.setFb a).sp = s.sp := rfl
@[simp] theorem State.setFb_stack (s : State) (a : Framebuffer) : (s.setFb a).stack = s.stack := rfl
@[simp] theorem State.setFb_dt (s : State) (a : Framebuffer) : (s.setFb a).dt = s.dt := rfl
@[simp] theorem State.setFb_st (s : State) (a : Framebuffer) : (s.setFb a).st = s.st := rfl
@[simp] theorem State.setFb_fb (s : State) (a : Framebuffer) : (s.setFb a).fb = a := rfl
@[simp] theorem State.setFb_key (s : State) (a : Framebuffer) : (s.setFb a).key = s.key := rfl
@[simp] theorem State.setFb_mem (s : State) (a : Framebuffer) : (s.setFb a).mem = s.mem := rfl
@[simp] theorem State.setFb_redraw (s : State) (a : Framebuffer) : (s.setFb a).redraw = s.redraw := rfl
@[simp] theorem State.setFb_draws (s : State) (a : Framebuffer) : (s.setFb a).draws = s.draws := rfl
@[simp] theorem State.setFb_getV (s : State) (a : Framebuffer) (y : Reg) : (s.setFb a).getV y = s.getV y := rfl
@[simp] theorem State.setFb_byteAt (s : State) (a : Framebuffer) (a' : Nat) : (s.setFb a).byteAt a' = s.byteAt a' := rfl

/-! ### setKey -/

@[simp] theorem State.setKey_cfg (s : State) (a : Option Nibble) : (s.setKey a).cfg = s.cfg := rfl
@[simp] theorem State.setKey_v (s : State) (a : Option Nibble) : (s.setKey a).v = s.v := rfl
@[simp] theorem State.setKey_i (s : State) (a : Option Nibble) : (s.setKey a).i = s.i := rfl
@[simp] theorem State.setKey_pc (s : State) (a : Option Nibble) : (s.setKey a).pc = s.pc := rfl
@[simp] theorem State.setKey_sp (s : State) (a : Option Nibble) : (s.setKey a).sp = s.sp := rfl
@[simp] theorem State.setKey_stack (s : State) (a : Option Nibble) : (s.setKey a).stack = s.stack := rfl
@[simp] theorem State.setKey_dt (s : State) (a : Option Nibble) : (s.setKey a).dt = s.dt := rfl
@[simp] theorem State.setKey_st (s : State) (a : Option Nibble) : (s.setKey a).st = s.st := rfl
@[simp] theorem State.setKey_fb (s : State) (a : Option Nibble) : (s.setKey a).fb = s.fb := rfl
@[simp] theorem State.setKey_key (s : State) (a : Option Nibble) : (s.setKey a).key = a := rfl
@[simp] theorem State.setKey_mem (s : State) (a : Option Nibble) : (s.setKey a).mem = s.mem := rfl
@[simp] theorem State.setKey_redraw (s : State) (a : Option Nibble) : (s.setKey a).redraw = s.redraw := rfl
@[simp] theorem State.setKey_draws (s : State) (a : Option Nibble) : (s.setKey a).draws = s.draws := rfl
@[simp] theorem State.setKey_getV (s : State) (a : Option Nibble) (y : Reg) : (s.setKey a).getV y = s.getV y := rfl
@[simp] theorem State.setKey_byteAt (s : State) (a : Option Nibble) (a' : Nat) : (s.setKey a).byteAt a' = s.byteAt a' := rfl

/-! ### setMem -/

@[simp] theorem State.setMem_cfg (s : State) (a : Memory) : (s.setMem a).cfg = s.cfg := rfl
@[simp] theorem State.setMem_v (s : State) (a : Memory) : (s.setMem a).v = s.v := rfl
@[simp] theorem State.setMem_i (s : State) (a : Memory) : (s.setMem a).i = s.i := rfl
@[simp] theorem State.setMem_pc (s : State) (a : Memory) : (s.setMem a).pc = s.pc := rfl
@[simp] theorem State.setMem_sp (s : State) (a : Memory) : (s.setMem a).sp = s.sp := rfl
@[simp] theorem State.setMem_stack (s : State) (a : Memory) : (s.setMem a).stack = s.stack := rfl
@[simp] theorem State.setMem_dt (s : State) (a : Memory) : (s.setMem a).dt = s.dt := rfl
@[simp] theorem State.setMem_st (s : State) (a : Memory) : (s.setMem a).st = s.st := rfl
@[simp] theorem State.setMem_fb (s : State) (a : Memory) : (s.setMem a).fb = s.fb := rfl
@[simp] theorem State.setMem_key (s : State) (a : Memory) : (s.setMem a).key = s.key := rfl
@[simp] theorem State.setMem_mem (s : State) (a : Memory) : (s.setMem a).mem = a := rfl
@[simp] theorem State.setMem_redraw (s : State) (a : Memory) : (s.setMem a).redraw = s.redraw := rfl
@[simp] theorem State.setMem_draws (s : State) (a : Memory) : (s.setMem a).draws = s.draws := rfl
@[simp] theorem State.setMem_getV (s : State) (a : Memory) (y : Reg) : (s.setMem a).getV y = s.getV y := rfl

/-! ### setRedraw -/

@[simp] theorem State.setRedraw_cfg (s : State) (a : Bool) : (s.setRedraw a).cfg = s.cfg := rfl
@[simp] theorem State.setRedraw_v (s : State) (a : Bool) : (s.setRedraw a).v = s.v := rfl
@[simp] theorem State.setRedraw_i (s : State) (a : Bool) : (s.setRedraw a).i = s.i := rfl
@[simp] theorem State.setRedraw_pc (s : State) (a : Bool) : (s.setRedraw a).pc = s.pc := rfl
@[simp] theorem State.setRedraw_sp (s : State) (a : Bool) : (s.setRedraw a).sp = s.sp := rfl
@[simp] theorem State.setRedraw_stack (s : State) (a : Bool) : (s.setRedraw a).stack = s.stack := rfl
@[simp] theorem State.setRedraw_dt (s : State) (a : Bool) : (s.setRedraw a).dt = s.dt := rfl
@[simp] theorem State.setRedraw_st (s : State) (a : Bool) : (s.setRedraw a).st = s.st := rfl
@[simp] theorem State.setRedraw_fb (s : State) (a : Bool) : (s.setRedraw a).fb = s.fb := rfl
@[simp] theorem State.setRedraw_key (s : State) (a : Bool) : (s.setRedraw a).key = s.key := rfl
@[simp] theorem State.setRedraw_mem (s : State) (a : Bool) : (s.setRedraw a).mem = s.mem := rfl
@[simp] theorem State.setRedraw_redraw (s : State) (a : Bool) : (s.setRedraw a).redraw = a := rfl
@[simp] theorem State.setRedraw_draws (s : State) (a : Bool) : (s.setRedraw a).draws = s.draws := rfl
@[simp] theorem State.setRedraw_getV (s : State) (a : Bool) (y : Reg) : (s.setRedraw a).getV y = s.getV y := rfl
@[simp] theorem State.setRedraw_byteAt (s : State) (a : Bool) (a' : Nat) : (s.setRedraw a).byteAt a' = s.byteAt a' := rfl

/-! ### setDraws -/

@[simp] theorem State.setDraws_cfg (s : State) (a : Nat) : (s.setDraws a).cfg = s.cfg := rfl
@[simp] theorem State.setDraws_v (s : State) (a : Nat) : (s.setDraws a).v = s.v := rfl
@[simp] theorem State.setDraws_i (s : State) (a : Nat) : (s.setDraws a).i = s.i := rfl
@[simp] theorem State.setDraws_pc (s : State) (a : Nat) : (s.setDraws a).pc = s.pc := rfl
@[simp] theorem State.setDraws_sp (s : State) (a : Nat) : (s.setDraws a).sp = s.sp := rfl
@[simp] theorem State.setDraws_stack (s : State) (a : Nat) : (s.setDraws a).stack = s.stack := rfl
@[simp] theorem State.setDraws_dt (s : State) (a : Nat) : (s.setDraws a).dt = s.dt := rfl
@[simp] theorem State.setDraws_st (s : State) (a : Nat) : (s.setDraws a).st = s.st := rfl
@[simp] theorem State.setDraws_fb (s : State) (a : Nat) : (s.setDraws a).fb = s.fb := rfl
@[simp] theorem State.setDraws_key (s : State) (a : Nat) : (s.setDraws a).key = s.key := rfl
@[simp] theorem State.setDraws_mem (s : State) (a : Nat) : (s.setDraws a).mem = s.mem := rfl
@[simp] theorem State.setDraws_redraw (s : State) (a : Nat) : (s.setDraws a).redraw = s.redraw := rfl
@[simp] theorem State.setDraws_draws (s : State) (a : Nat) : (s.setDraws a).draws = a := rfl
@[simp] theorem State.setDraws_getV (s : State) (a : Nat) (y : Reg) : (s.setDraws a).getV y = s.getV y := rfl
@[simp] theorem State.setDraws_byteAt (s : State) (a : Nat) (a' : Nat) : (s.setDraws a).byteAt a' = s.byteAt a' := rfl

/-! ### setProfile -/

@[simp] theorem State.setProfile_cfg (s : State) (p : Profile) : (s.setProfile p).cfg = { s.cfg with profile := p } := rfl
@[simp] theorem State.setProfile_v (s : State) (p : Profile) : (s.setProfile p).v = s.v := rfl
@[simp] theorem State.setProfile_i (s : State) (p : Profile) : (s.setProfile p).i = s.i := rfl
@[simp] theorem State.setProfile_pc (s : State) (p : Profile) : (s.setProfile p).pc = s.pc := rfl
@[simp] theorem State.setProfile_sp (s : State) (p : Profile) : (s.setProfile p).sp = s.sp := rfl
@[simp] theorem State.setProfile_stack (s : State) (p : Profile) : (s.setProfile p).stack = s.stack := rfl
@[simp] theorem State.setProfile_dt (s : State) (p : Profile) : (s.setProfile p).dt = s.dt := rfl
@[simp] theorem State.setProfile_st (s : State) (p : Profile) : (s.setProfile p).st = s.st := rfl
@[simp] theorem State.setProfile_fb (s : State) (p : Profile) : (s.setProfile p).fb = s.fb := rfl
@[simp] theorem State.setProfile_key (s : State) (p : Profile) : (s.setProfile p).key = s.key := rfl
@[simp] theorem State.setProfile_mem (s : State) (p : Profile) : (s.setProfile p).mem = s.mem := rfl
@[simp] theorem State.setProfile_redraw (s : State) (p : Profile) : (s.setProfile p).redraw = s.redraw := rfl
@[simp] theorem State.setProfile_draws (s : State) (p : Profile) : (s.setProfile p).draws = s.draws := rfl
@[simp] theorem State.setProfile_getV (s : State) (p : Profile) (y : Reg) : (s.setProfile p).getV y = s.getV y := rfl

/-! ### setV -/

@[simp] theorem State.setV_cfg (s : State) (x : Reg) (b : Byte) : (s.setV x b).cfg = s.cfg := rfl
@[simp] theorem State.setV_v (s : State) (x : Reg) (b : Byte) : (s.setV x b).v = s.v.set x.toNat b x.isLt := rfl
@[simp] theorem State.setV_i (s : State) (x : Reg) (b : Byte) : (s.setV x b).i = s.i := rfl
@[simp] theorem State.setV_pc (s : State) (x : Reg) (b : Byte) : (s.setV x b).pc = s.pc := rfl
@[simp] theorem State.setV_sp (s : State) (x : Reg) (b : Byte) : (s.setV x b).sp = s.sp := rfl
@[simp] theorem State.setV_stack (s : State) (x : Reg) (b : Byte) : (s.setV x b).stack = s.stack := rfl
@[simp] theorem State.setV_dt (s : State) (x : Reg) (b : Byte) : (s.setV x b).dt = s.dt := rfl
@[simp] theorem State.setV_st (s : State) (x : Reg) (b : Byte) : (s.setV x b).st = s.st := rfl
@[simp] theorem State.setV_fb (s : State) (x : Reg) (b : Byte) : (s.setV x b).fb = s.fb := rfl
@[simp] theorem State.setV_key (s : State) (x : Reg) (b : Byte) : (s.setV x b).key = s.key := rfl
@[simp] theorem State.setV_mem (s : State) (x : Reg) (b : Byte) : (s.setV x b).mem = s.mem := rfl
@[simp] theorem State.setV_redraw (s : State) (x : Reg) (b : Byte) : (s.setV x b).redraw = s.redraw := rfl
@[simp] theorem State.setV_draws (s : State) (x : Reg) (b : Byte) : (s.setV x b).draws = s.draws := rfl
@[simp] theorem State.setV_byteAt (s : State) (x : Reg) (b : Byte) (a : Nat) : (s.setV x b).byteAt a = s.byteAt a := rfl

/-! ### advance, skipIf, beginStep -/

@[simp] theorem State.advance_cfg (s : State) : (s.advance).cfg = s.cfg := rfl
@[simp] theorem State.advance_v (s : State) : (s.advance).v = s.v := rfl
@[simp] theorem State.advance_i (s : State) : (s.advance).i = s.i := rfl
@[simp] theorem State.advance_pc (s : State) : (s.advance).pc = s.pc + 2#16 := rfl
@[simp] theorem State.advance_sp (s : State) : (s.advance).sp = s.sp := rfl
@[simp] theorem State.advance_stack (s : State) : (s.advance).stack = s.stack := rfl
@[simp] theorem State.advance_dt (s : State) : (s.advance).dt = s.dt := rfl
@[simp] theorem State.advance_st (s : State) : (s.advance).st = s.st := rfl
@[simp] theorem State.advance_fb (s : State) : (s.advance).fb = s.fb := rfl
@[simp] theorem State.advance_key (s : State) : (s.advance).key = s.key := rfl
@[simp] theorem State.advance_mem (s : State) : (s.advance).mem = s.mem := rfl
@[simp] theorem State.advance_redraw (s : State) : (s.advance).redraw = s.redraw := rfl
@[simp] theorem State.advance_draws (s : State) : (s.advance).draws = s.draws := rfl
@[simp] theorem State.skipIf_cfg (s : State) (c : Bool) : (s.skipIf c).cfg = s.cfg := rfl
@[simp] theorem State.skipIf_v (s : State) (c : Bool) : (s.skipIf c).v = s.v := rfl
@[simp] theorem State.skipIf_i (s : State) (c : Bool) : (s.skipIf c).i = s.i := rfl
@[simp] theorem State.skipIf_pc (s : State) (c : Bool) : (s.skipIf c).pc = s.pc + (if c then 4#16 else 2#16) := rfl
@[simp] theorem State.skipIf_sp (s : State) (c : Bool) : (s.skipIf c).sp = s.sp := rfl
@[simp] theorem State.skipIf_stack (s : State) (c : Bool) : (s.skipIf c).stack = s.stack := rfl
@[simp] theorem State.skipIf_dt (s : State) (c : Bool) : (s.skipIf c).dt = s.dt := rfl
@[simp] theorem State.skipIf_st (s : State) (c : Bool) : (s.skipIf c).st = s.st := rfl
@[simp] theorem State.skipIf_fb (s : State) (c : Bool) : (s.skipIf c).fb = s.fb := rfl
@[simp] theorem State.skipIf_key (s : State) (c : Bool) : (s.skipIf c).key = s.key := rfl
@[simp] theorem State.skipIf_mem (s : State) (c : Bool) : (s.skipIf c).mem = s.mem := rfl
@[simp] theorem State.skipIf_redraw (s : State) (c : Bool) : (s.skipIf c).redraw = s.redraw := rfl
@[simp] theorem State.skipIf_draws (s : State) (c : Bool) : (s.skipIf c).draws = s.draws := rfl
@[simp] theorem State.beginStep_cfg (s : State) : (s.beginStep).cfg = s.cfg := rfl
@[simp] theorem State.beginStep_v (s : State) : (s.beginStep).v = s.v := rfl
@[simp] theorem State.beginStep_i (s : State) : (s.beginStep).i = s.i := rfl
@[simp] theorem State.beginStep_pc (s : State) : (s.beginStep).pc = s.pc := rfl
@[simp] theorem State.beginStep_sp (s : State) : (s.beginStep).sp = s.sp := rfl
@[simp] theorem State.beginStep_stack (s : State) : (s.beginStep).stack = s.stack := rfl
@[simp] theorem State.beginStep_dt (s : State) : (s.beginStep).dt = s.dt := rfl
@[simp] theorem State.beginStep_st (s : State) : (s.beginStep).st = s.st := rfl
@[simp] theorem State.beginStep_fb (s : State) : (s.beginStep).fb = s.fb := rfl
@[simp] theorem State.beginStep_key (s : State) : (s.beginStep).key = s.key := rfl
@[simp] theorem State.beginStep_mem (s : State) : (s.beginStep).mem = s.mem := rfl
@[simp] theorem State.beginStep_redraw (s : State) : (s.beginStep).redraw = false := rfl
@[simp] theorem State.beginStep_draws (s : State) : (s.beginStep).draws = s.draws := rfl
@[simp] theorem State.advance_getV (s : State) (y : Reg) : (s.advance).getV y = s.getV y := rfl
@[simp] theorem State.advance_byteAt (s : State) (a : Nat) : (s.advance).byteAt a = s.byteAt a := rfl
@[simp] theorem State.skipIf_getV (s : State) (c : Bool) (y : Reg) : (s.skipIf c).getV y = s.getV y := rfl
@[simp] theorem State.skipIf_byteAt (s : State) (c : Bool) (a : Nat) : (s.skipIf c).byteAt a = s.byteAt a := rfl
@[simp] theorem State.beginStep_getV (s : State) (y : Reg) : (s.beginStep).getV y = s.getV y := rfl
@[simp] theorem State.beginStep_byteAt (s : State) (a : Nat) : (s.beginStep).byteAt a = s.byteAt a := rfl

/-! ### setFlagThen -/

@[simp] theorem State.setFlagThen_cfg (s : State) (g : Bool) (x : Reg) (b : Byte) : (s.setFlagThen g x b).cfg = s.cfg := rfl
@[simp] theorem State.setFlagThen_i (s : State) (g : Bool) (x : Reg) (b : Byte) : (s.setFlagThen g x b).i = s.i := rfl
@[simp] theorem State.setFlagThen_pc (s : State) (g : Bool) (x : Reg) (b : Byte) : (s.setFlagThen g x b).pc = s.pc := rfl
@[simp] theorem State.setFlagThen_sp (s : State) (g : Bool) (x : Reg) (b : Byte) : (s.setFlagThen g x b).sp = s.sp := rfl
@[simp] theorem State.setFlagThen_stack (s : State) (g : Bool) (x : Reg) (b : Byte) : (s.setFlagThen g x b).stack = s.stack := rfl
@[simp] theorem State.setFlagThen_dt (s : State) (g : Bool) (x : Reg) (b : Byte) : (s.setFlagThen g x b).dt = s.dt := rfl
@[simp] theorem State.setFlagThen_st (s : State) (g : Bool) (x : Reg) (b : Byte) : (s.setFlagThen g x b).st = s.st := rfl
@[simp] theorem State.setFlagThen_fb (s : State) (g : Bool) (x : Reg) (b : Byte) : (s.setFlagThen g x b).fb = s.fb := rfl
@[simp] theorem State.setFlagThen_key (s : State) (g : Bool) (x : Reg) (b : Byte) : (s.setFlagThen g x b).key = s.key := rfl
@[simp] theorem State.setFlagThen_mem (s : State) (g : Bool) (x : Reg) (b : Byte) : (s.setFlagThen g x b).mem = s.mem := rfl
@[simp] theorem State.setFlagThen_redraw (s : State) (g : Bool) (x : Reg) (b : Byte) : (s.setFlagThen g x b).redraw = s.redraw := rfl
@[simp] theorem State.setFlagThen_draws (s : State) (g : Bool) (x : Reg) (b : Byte) : (s.setFlagThen g x b).draws = s.draws := rfl
@[simp] theorem State.setFlagThen_byteAt (s : State) (g : Bool) (x : Reg) (b : Byte) (a : Nat) : (s.setFlagThen g x b).byteAt a = s.byteAt a := rfl

end Sys2Proof.Machine
end

