-- ==== Sys2Proof/Laws/Ops.lean ====
section
/-! SUPPORT. One lemma per shared operation that says everything it can do; proofs cite these and do not unfold the
operations. -/

namespace Sys2Proof.Machine

/-! ### General registers -/

/-- A register read after a register write. -/
theorem State.setV_getV (s : State) (x y : Reg) (b : Byte) : (s.setV x b).getV y = if y = x then b else s.getV y := by
  simp only [State.getV, State.setV, Vector.getElem_set, BitVec.toNat_eq (x := y), eq_comm (a := y.toNat)]

/-- The flag is written first, so the result stays when X = F (R471). -/
theorem State.setFlagThen_getV (s : State) (g : Bool) (x y : Reg) (b : Byte) :
    (s.setFlagThen g x b).getV y = if y = x then b else if y = vf then flagByte g else s.getV y := by
  simp only [State.setFlagThen, State.setV_getV]

theorem State.regsThrough_length (s : State) (x : Reg) : (s.regsThrough x).length = x.toNat + 1 := by
  simp [State.regsThrough]; omega

theorem State.regsThrough_getElem (s : State) (x y : Reg) (h : y.toNat ≤ x.toNat) :
    (s.regsThrough x)[y.toNat]? = some (s.getV y) := by
  rw [State.regsThrough, List.getElem?_take_of_lt (by omega)]
  simp [State.getV, y.isLt]

/-- Two register files are equal when every register reads the same. -/
theorem State.v_eq_of_getV {s t : State} (h : ∀ y, t.getV y = s.getV y) : t.v = s.v := by
  apply Vector.ext
  intro k hk
  have := h (BitVec.ofFin ⟨k, hk⟩)
  simpa [State.getV] using this

/-! ### Registers from memory -/

/-- `loadFrom` writes `bs` to the registers from `k` on and nothing else. -/
theorem State.loadFrom_getV (s : State) (k : Nat) (bs : List Byte) (h : k + bs.length ≤ 16) (y : Reg) :
    (s.loadFrom k bs).getV y = if k ≤ y.toNat then bs.getD (y.toNat - k) (s.getV y) else s.getV y := by
  induction bs generalizing s k with
  | nil => simp [State.loadFrom]
  | cons b bs ih =>
    rw [State.loadFrom, ih _ _ (by simp only [List.length_cons] at h; omega), State.setV_getV]
    have hk : (BitVec.ofNat 4 k).toNat = k := by
      simp only [BitVec.toNat_ofNat, List.length_cons] at h ⊢; omega
    by_cases e : y.toNat = k
    · have : y = BitVec.ofNat 4 k := BitVec.eq_of_toNat_eq (by omega)
      simp [this, hk]
    · have : y ≠ BitVec.ofNat 4 k := fun c => e (by rw [c, hk])
      by_cases l : k ≤ y.toNat
      · obtain ⟨d, hd⟩ : ∃ d, y.toNat - k = d + 1 := ⟨y.toNat - k - 1, by omega⟩
        rw [if_pos (by omega), if_pos l, if_neg this, hd, show y.toNat - (k + 1) = d by omega]
        rfl
      · rw [if_neg (by omega), if_neg l, if_neg this]

/-- `loadFrom` leaves everything but the registers. -/
theorem State.loadFrom_eq (s : State) (k : Nat) (bs : List Byte) : ∃ v, s.loadFrom k bs = { s with v := v } := by
  induction bs generalizing s k with
  | nil => exact ⟨s.v, rfl⟩
  | cons b bs ih =>
    obtain ⟨v, hv⟩ := ih (s.setV (BitVec.ofNat 4 k) b) (k + 1)
    exact ⟨v, hv⟩

/-! ### Call stack -/

/-- A push succeeds exactly below 16 entries, and writes the entry at SP. -/
theorem State.push_eq (s : State) (a : Word) (h : s.sp.val < 16) :
    s.push a = some { s with stack := s.stack.set s.sp.val a h, sp := ⟨s.sp.val + 1, by omega⟩ } := by
  simp [State.push, h]

theorem State.push_full (s : State) (a : Word) (h : s.sp.val = 16) : s.push a = none := by
  simp [State.push, h]

/-- A pop succeeds exactly when there is an entry, and leaves the array as it was (R106). -/
theorem State.pop_eq (s : State) (h : 0 < s.sp.val) :
    s.pop = some (s.stack[s.sp.val - 1]'(by omega), { s with sp := ⟨s.sp.val - 1, by omega⟩ }) := by
  simp [State.pop, h]

theorem State.pop_empty (s : State) (h : s.sp.val = 0) : s.pop = none := by
  simp [State.pop, h]

/-! ### Memory -/

/-- The range check faults exactly when a nonempty range reaches 4096 (R212). -/
theorem checkRange_error {a n : Nat} (h : 0 < n ∧ memSize ≤ a + n - 1) :
    checkRange a n = .error (.memoryOutOfBounds (max a memSize)) := if_pos h

theorem checkRange_ok {a n : Nat} (h : n = 0 ∨ a + n ≤ memSize) : checkRange a n = .ok () :=
  if_neg (by omega)

theorem State.readRange_ok (s : State) {a n : Nat} (h : n = 0 ∨ a + n ≤ memSize) :
    s.readRange a n = .ok (s.bytesAt a n) := by
  rw [State.readRange, checkRange_ok h]

theorem State.readRange_error (s : State) {a n : Nat} (h : 0 < n ∧ memSize ≤ a + n - 1) :
    s.readRange a n = .error (.memoryOutOfBounds (max a memSize)) := by
  rw [State.readRange, checkRange_error h]

theorem State.writeRange_ok (s : State) {a : Nat} {bs : List Byte} (h : bs.length = 0 ∨ a + bs.length ≤ memSize) :
    s.writeRange a bs = .ok (s.setBytes a bs) := by
  rw [State.writeRange, checkRange_ok h]

theorem State.writeRange_error (s : State) {a : Nat} {bs : List Byte}
    (h : 0 < bs.length ∧ memSize ≤ a + bs.length - 1) :
    s.writeRange a bs = .error (.memoryOutOfBounds (max a memSize)) := by
  rw [State.writeRange, checkRange_error h]

@[simp] theorem State.bytesAt_length (s : State) (a n : Nat) : (s.bytesAt a n).length = n := by
  simp [State.bytesAt]

theorem State.bytesAt_getElem (s : State) (a n k : Nat) (h : k < n) :
    (s.bytesAt a n)[k]? = some (s.byteAt (a + k)) := by
  simp [State.bytesAt, h]

/-- A byte read after a byte write. -/
theorem State.setByte_byteAt (s : State) (a b : Nat) (v : Byte) :
    (s.setByte a v).byteAt b = if b = a ∧ a < memSize then v else s.byteAt b := by
  unfold State.setByte
  by_cases h : a < memSize
  · simp only [h, if_true, and_true]; exact Memory.get_set
  · simp [h]

/-- A byte write leaves everything but memory. -/
theorem State.setByte_eq (s : State) (a : Nat) (v : Byte) : ∃ m, s.setByte a v = s.setMem m := by
  unfold State.setByte
  split
  · exact ⟨_, rfl⟩
  · exact ⟨s.mem, rfl⟩

theorem State.setBytes_eq (s : State) (a : Nat) (bs : List Byte) : ∃ m, s.setBytes a bs = s.setMem m := by
  induction bs generalizing s a with
  | nil => exact ⟨s.mem, rfl⟩
  | cons b bs ih =>
    obtain ⟨m, hm⟩ := s.setByte_eq a b
    obtain ⟨m', hm'⟩ := ih (s.setByte a b) (a + 1)
    exact ⟨m', by rw [State.setBytes, hm', hm]; rfl⟩

/-- A byte read after a range write: the byte written inside the range, what stood there outside it. -/
theorem State.setBytes_byteAt (s : State) (a k : Nat) (bs : List Byte) (h : a + bs.length ≤ memSize) :
    (s.setBytes a bs).byteAt k = if a ≤ k then bs.getD (k - a) (s.byteAt k) else s.byteAt k := by
  induction bs generalizing s a with
  | nil => simp [State.setBytes]
  | cons b bs ih =>
    simp only [List.length_cons] at h
    rw [State.setBytes, ih _ _ (by omega), State.setByte_byteAt]
    by_cases e : k = a
    · subst k; rw [if_neg (by omega), if_pos ⟨rfl, by omega⟩, if_pos (by omega)]; simp
    · by_cases l : a ≤ k
      · obtain ⟨d, hd⟩ : ∃ d, k - a = d + 1 := ⟨k - a - 1, by omega⟩
        rw [if_pos (by omega), if_pos l, if_neg (by simp [e]), hd, show k - (a + 1) = d by omega]
        rfl
      · rw [if_neg (by omega), if_neg l, if_neg (by simp [e])]

/-- Outside the range a range write changes nothing, wherever the range lies. -/
theorem State.setBytes_byteAt_outside (s : State) (a k : Nat) (bs : List Byte) (h : k < a ∨ a + bs.length ≤ k) :
    (s.setBytes a bs).byteAt k = s.byteAt k := by
  induction bs generalizing s a with
  | nil => rfl
  | cons b bs ih =>
    simp only [List.length_cons] at h
    rw [State.setBytes, ih _ _ (by omega), State.setByte_byteAt, if_neg (by omega)]

/-- Every memory write keeps the canonical form. -/
theorem State.setByte_wf (s : State) (a : Nat) (v : Byte) (h : s.mem.wf s.cfg) :
    (s.setByte a v).mem.wf (s.setByte a v).cfg := by
  unfold State.setByte
  split
  · exact Memory.wf_set h ‹_›
  · exact h

theorem State.setBytes_wf (s : State) (a : Nat) (bs : List Byte) (h : s.mem.wf s.cfg) :
    (s.setBytes a bs).mem.wf (s.setBytes a bs).cfg := by
  induction bs generalizing s a with
  | nil => exact h
  | cons b bs ih => exact ih _ _ (s.setByte_wf a b h)

/-! ### Framebuffer -/

theorem Framebuffer.set_get (f : Framebuffer) (i j : Nat) (b : Bool) (h : i < fbSize) :
    (f.set i b).get j = if j = i then b else f.get j := by
  have := f.size
  simp only [Framebuffer.get, Framebuffer.set, List.getD_eq_getElem?_getD, List.getElem?_set]
  grind

@[simp] theorem Framebuffer.blank_get (i : Nat) : Framebuffer.blank.get i = false := by
  simp only [Framebuffer.get, Framebuffer.blank, List.getD_eq_getElem?_getD, List.getElem?_replicate]
  split <;> rfl

/-- Two framebuffers are equal when every pixel is. -/
theorem Framebuffer.ext_get {f g : Framebuffer} (h : ∀ i, i < fbSize → f.get i = g.get i) : f = g := by
  obtain ⟨p, hp⟩ := f
  obtain ⟨q, hq⟩ := g
  congr
  apply List.ext_getElem (hp.trans hq.symm)
  intro i hi hi'
  simpa [Framebuffer.get, hi, hi'] using h i (hp ▸ hi)

end Sys2Proof.Machine
end

