-- ==== Sys2Proof/Laws/PerInstr.lean ====
section
/-! SUPPORT. Facts of each instruction as syntax, one lemma per constructor. -/

namespace Sys2Proof.Laws

/-- The encoding of an instruction matches its row of the opcode map, and the row has the instruction's profile
(30_encoding.md R307, R309). -/
def EncodesRow.Statement (i : Instr) : Prop :=
  encode i &&& i.row.mask = i.row.pattern ∧ i.row.profile = i.rowProfile

theorem EncodesRow.cls : EncodesRow.Statement (.cls) := ⟨rfl, rfl⟩
theorem EncodesRow.ret : EncodesRow.Statement (.ret) := ⟨rfl, rfl⟩
theorem EncodesRow.jp (nnn : Addr12) : EncodesRow.Statement (.jp nnn) := ⟨mask_formatA _ nnn, rfl⟩
theorem EncodesRow.call (nnn : Addr12) : EncodesRow.Statement (.call nnn) := ⟨mask_formatA _ nnn, rfl⟩
theorem EncodesRow.seImm (x : Reg) (nn : Byte) : EncodesRow.Statement (.seImm x nn) := ⟨mask_formatXK _ x nn, rfl⟩
theorem EncodesRow.sneImm (x : Reg) (nn : Byte) : EncodesRow.Statement (.sneImm x nn) := ⟨mask_formatXK _ x nn, rfl⟩
theorem EncodesRow.seReg (x y : Reg) : EncodesRow.Statement (.seReg x y) := ⟨mask_formatXYS _ x y _, rfl⟩
theorem EncodesRow.ldImm (x : Reg) (nn : Byte) : EncodesRow.Statement (.ldImm x nn) := ⟨mask_formatXK _ x nn, rfl⟩
theorem EncodesRow.addImm (x : Reg) (nn : Byte) : EncodesRow.Statement (.addImm x nn) := ⟨mask_formatXK _ x nn, rfl⟩
theorem EncodesRow.ldReg (x y : Reg) : EncodesRow.Statement (.ldReg x y) := ⟨mask_formatXYS _ x y _, rfl⟩
theorem EncodesRow.orReg (x y : Reg) : EncodesRow.Statement (.orReg x y) := ⟨mask_formatXYS _ x y _, rfl⟩
theorem EncodesRow.andReg (x y : Reg) : EncodesRow.Statement (.andReg x y) := ⟨mask_formatXYS _ x y _, rfl⟩
theorem EncodesRow.xorReg (x y : Reg) : EncodesRow.Statement (.xorReg x y) := ⟨mask_formatXYS _ x y _, rfl⟩
theorem EncodesRow.addReg (x y : Reg) : EncodesRow.Statement (.addReg x y) := ⟨mask_formatXYS _ x y _, rfl⟩
theorem EncodesRow.subReg (x y : Reg) : EncodesRow.Statement (.subReg x y) := ⟨mask_formatXYS _ x y _, rfl⟩
theorem EncodesRow.shr (x y : Reg) : EncodesRow.Statement (.shr x y) := ⟨mask_formatXYS _ x y _, rfl⟩
theorem EncodesRow.subn (x y : Reg) : EncodesRow.Statement (.subn x y) := ⟨mask_formatXYS _ x y _, rfl⟩
theorem EncodesRow.shl (x y : Reg) : EncodesRow.Statement (.shl x y) := ⟨mask_formatXYS _ x y _, rfl⟩
theorem EncodesRow.sneReg (x y : Reg) : EncodesRow.Statement (.sneReg x y) := ⟨mask_formatXYS _ x y _, rfl⟩
theorem EncodesRow.ldI (nnn : Addr12) : EncodesRow.Statement (.ldI nnn) := ⟨mask_formatA _ nnn, rfl⟩
theorem EncodesRow.jpV0 (nnn : Addr12) : EncodesRow.Statement (.jpV0 nnn) := ⟨mask_formatA _ nnn, rfl⟩
theorem EncodesRow.rnd (x : Reg) (nn : Byte) : EncodesRow.Statement (.rnd x nn) := ⟨mask_formatXK _ x nn, rfl⟩
theorem EncodesRow.drw (x y : Reg) (n : Nibble) : EncodesRow.Statement (.drw x y n) := ⟨mask_formatXYN _ x y n, rfl⟩
theorem EncodesRow.skp (x : Reg) : EncodesRow.Statement (.skp x) := ⟨mask_formatXS _ x _, rfl⟩
theorem EncodesRow.sknp (x : Reg) : EncodesRow.Statement (.sknp x) := ⟨mask_formatXS _ x _, rfl⟩
theorem EncodesRow.ldVxDt (x : Reg) : EncodesRow.Statement (.ldVxDt x) := ⟨mask_formatXS _ x _, rfl⟩
theorem EncodesRow.ldVxK (x : Reg) : EncodesRow.Statement (.ldVxK x) := ⟨mask_formatXS _ x _, rfl⟩
theorem EncodesRow.ldDtVx (x : Reg) : EncodesRow.Statement (.ldDtVx x) := ⟨mask_formatXS _ x _, rfl⟩
theorem EncodesRow.ldStVx (x : Reg) : EncodesRow.Statement (.ldStVx x) := ⟨mask_formatXS _ x _, rfl⟩
theorem EncodesRow.addI (x : Reg) : EncodesRow.Statement (.addI x) := ⟨mask_formatXS _ x _, rfl⟩
theorem EncodesRow.ldF (x : Reg) : EncodesRow.Statement (.ldF x) := ⟨mask_formatXS _ x _, rfl⟩
theorem EncodesRow.ldB (x : Reg) : EncodesRow.Statement (.ldB x) := ⟨mask_formatXS _ x _, rfl⟩
theorem EncodesRow.storeRegs (x : Reg) : EncodesRow.Statement (.storeRegs x) := ⟨mask_formatXS _ x _, rfl⟩
theorem EncodesRow.loadRegs (x : Reg) : EncodesRow.Statement (.loadRegs x) := ⟨mask_formatXS _ x _, rfl⟩

end Sys2Proof.Laws
end

