-- ==== Sys2Proof/Laws/Sprite.lean ====
section
/-! SUPPORT. The collision unit: a draw inverts the pixels its set bits land on, each once (43_display.md R556). -/

namespace Sys2Proof.Machine

/-- Invert the pixels of a list in order, collecting the collision. -/
def flips (l : List Nat) (d : Drawing) : Drawing :=
  l.foldl (fun d i => { fb := d.fb.set i (!d.fb.get i), collision := d.collision || d.fb.get i }) d

/-- The pixels the set bits of one row land on, for screen row `y`. -/
def rowPixels (xwrap : Bool) (x0 y : Nat) (row : Byte) : List Nat :=
  ((List.range 8).filter fun c => rowBit row c ∧ spriteColumn xwrap x0 c < fbWidth ∧ y < fbHeight).map
    fun c => pixelIndex (spriteColumn xwrap x0 c) y

/-- The pixels of the rows from screen row `y` on. -/
def rowsPixels (xwrap : Bool) (x0 : Nat) : Nat → List Byte → List Nat
  | _, [] => []
  | y, row :: rows => rowPixels xwrap x0 y row ++ rowsPixels xwrap x0 (y + 1) rows

theorem drawRow_eq_flips (xwrap : Bool) (x0 y : Nat) (row : Byte) (d : Drawing) :
    drawRow xwrap x0 y row d = flips (rowPixels xwrap x0 y row) d := by
  rw [flips, rowPixels, List.foldl_map, List.foldl_filter]
  rw [drawRow]
  congr 1
  funext d c
  simp only [drawPixel, decide_eq_true_eq]

theorem drawRows_eq_flips (xwrap : Bool) (x0 y : Nat) (rows : List Byte) (d : Drawing) :
    drawRows xwrap x0 y rows d = flips (rowsPixels xwrap x0 y rows) d := by
  induction rows generalizing y d with
  | nil => rfl
  | cons row rows ih => rw [drawRows, ih, drawRow_eq_flips, rowsPixels, flips, flips, flips, List.foldl_append]

/-- Inverting distinct pixels: each pixel of the list is inverted, every other stays, and the collision says whether
one of them was on before. -/
theorem flips_spec {l : List Nat} (hn : l.Nodup) (hl : ∀ i ∈ l, i < fbSize) (d : Drawing) :
    (∀ j, (flips l d).fb.get j = (if j ∈ l then !d.fb.get j else d.fb.get j)) ∧
      (flips l d).collision = (d.collision || l.any d.fb.get) := by
  induction l generalizing d with
  | nil => simp [flips]
  | cons i l ih =>
    obtain ⟨hi, hn⟩ := List.nodup_cons.mp hn
    have hb : i < fbSize := hl i (by simp)
    obtain ⟨h1, h2⟩ := ih hn (fun k hk => hl k (by simp [hk]))
      { fb := d.fb.set i (!d.fb.get i), collision := d.collision || d.fb.get i }
    refine ⟨fun j => (h1 j).trans ?_, h2.trans ?_⟩
    · simp only [Framebuffer.set_get _ _ _ _ hb, List.mem_cons]
      grind
    · have : l.any (d.fb.set i (!d.fb.get i)).get = l.any d.fb.get := by
        rw [Bool.eq_iff_iff]
        simp only [List.any_eq_true]
        refine exists_congr fun k => and_congr_right fun hk => ?_
        rw [Framebuffer.set_get _ _ _ _ hb, if_neg (fun e : k = i => hi (e ▸ hk))]
      simp only [this, List.any_cons, Bool.or_assoc]

theorem mem_rowPixels {xwrap : Bool} {x0 y : Nat} {row : Byte} {idx : Nat} :
    idx ∈ rowPixels xwrap x0 y row ↔ ∃ c, c < 8 ∧ rowBit row c = true ∧ spriteColumn xwrap x0 c < fbWidth ∧
      y < fbHeight ∧ idx = pixelIndex (spriteColumn xwrap x0 c) y := by
  simp only [rowPixels, List.mem_map, List.mem_filter, List.mem_range, decide_eq_true_eq]
  grind

/-- Where a sprite's pixels are. -/
theorem mem_rowsPixels {xwrap : Bool} {x0 y : Nat} {rows : List Byte} {idx : Nat} :
    idx ∈ rowsPixels xwrap x0 y rows ↔ ∃ (r : Nat) (row : Byte), rows[r]? = some row ∧ idx ∈ rowPixels xwrap x0 (y + r) row := by
  induction rows generalizing y with
  | nil => simp [rowsPixels]
  | cons row rows ih =>
    simp only [rowsPixels, List.mem_append, ih]
    constructor
    · rintro (h | ⟨r, row', hr, h⟩)
      · exact ⟨0, row, rfl, h⟩
      · exact ⟨r + 1, row', hr, by rwa [show y + (r + 1) = y + 1 + r by omega]⟩
    · rintro ⟨r, row', hr, h⟩
      cases r with
      | zero => simp only [List.getElem?_cons_zero, Option.some.injEq] at hr; subst hr; exact .inl h
      | succ r => exact .inr ⟨r, row', hr, by rwa [show y + 1 + r = y + (r + 1) by omega]⟩

theorem rowPixels_row {xwrap : Bool} {x0 y : Nat} {row : Byte} {idx : Nat} (h : idx ∈ rowPixels xwrap x0 y row) :
    idx / 64 = y ∧ idx < fbSize := by
  obtain ⟨c, -, -, hx, hy, rfl⟩ := mem_rowPixels.mp h
  simp only [pixelIndex, fbWidth, fbHeight, fbSize] at hx hy ⊢
  omega

theorem rowPixels_nodup (xwrap : Bool) (x0 y : Nat) (row : Byte) : (rowPixels xwrap x0 y row).Nodup := by
  refine List.Nodup.map_on ?_ (List.nodup_range.filter _)
  intro c hc c' hc' h
  simp only [List.mem_filter, List.mem_range, decide_eq_true_eq] at hc hc'
  simp only [pixelIndex, spriteColumn, fbWidth, fbHeight] at h hc hc'
  split at h <;> omega

theorem rowsPixels_nodup (xwrap : Bool) (x0 y : Nat) (rows : List Byte) : (rowsPixels xwrap x0 y rows).Nodup := by
  induction rows generalizing y with
  | nil => exact List.nodup_nil
  | cons row rows ih =>
    refine List.Nodup.append (rowPixels_nodup ..) (ih _) ?_
    intro idx h h'
    obtain ⟨r, row', -, h'⟩ := mem_rowsPixels.mp h'
    have := (rowPixels_row h).1
    have := (rowPixels_row h').1
    omega

/-- What a whole draw does (R556). -/
theorem drawSprite_spec (xwrap : Bool) (x0 y0 : Nat) (rows : List Byte) (fb : Framebuffer) :
    (∀ j, (drawSprite xwrap x0 y0 rows fb).fb.get j =
      (if j ∈ rowsPixels xwrap x0 y0 rows then !fb.get j else fb.get j)) ∧
      (drawSprite xwrap x0 y0 rows fb).collision = (rowsPixels xwrap x0 y0 rows).any fb.get := by
  have h := flips_spec (rowsPixels_nodup xwrap x0 y0 rows)
    (fun i hi => by obtain ⟨r, row, -, h⟩ := mem_rowsPixels.mp hi; exact (rowPixels_row h).2) ⟨fb, false⟩
  rw [drawSprite, drawRows_eq_flips]
  simpa using h

end Sys2Proof.Machine
end

