-- ==== Sys2Proof/Laws/Step.lean ====
section
/-! SUPPORT. What the fetch can do, what a completed step was, and that the parameters beside PROFILE and the memory
do not see PROFILE. -/

namespace Sys2Proof.Machine

/-! ### Fetch -/

/-- A pc whose two bytes exist fetches the word they make. -/
theorem State.fetch_of_fetches {s : State} {w : Word} (h : s.Fetches w) : s.fetch = .ok w := by
  obtain ⟨h1, h2, h3⟩ := h
  rw [State.fetch, checkRange_ok (by omega), ← h2, ← h3, wordOfBytes_extract]

/-- Any other pc faults with the lowest address that is out of bounds. -/
theorem State.fetch_out {s : State} (h : memSize ≤ s.pc.toNat + 1) :
    s.fetch = .error (.memoryOutOfBounds (max s.pc.toNat memSize)) := by
  rw [State.fetch, checkRange_error (by omega)]

/-- There is always a word at a pc whose two bytes exist. -/
theorem State.fetches_of_lt {s : State} (h : s.pc.toNat + 1 < memSize) :
    s.Fetches (wordOfBytes (s.byteAt s.pc.toNat) (s.byteAt (s.pc.toNat + 1))) :=
  ⟨h, wordOfBytes_hi .., wordOfBytes_lo ..⟩

/-- Two words fetched by one state are the same word. -/
theorem State.fetches_unique {s : State} {w w' : Word} (h : s.Fetches w) (h' : s.Fetches w') : w = w' := by
  rw [← wordOfBytes_extract w, ← wordOfBytes_extract w', h.2.1, h.2.2, h'.2.1, h'.2.2]

/-- A step that completed fetched a word, decoded it and was the execution of its instruction. -/
theorem step_next {s t : State} (h : step s = .next t) :
    ∃ w i, s.Fetches w ∧ decode s.cfg.profile w = .ok i ∧ exec i (s.setRedraw false) = .next t := by
  have hlt : s.pc.toNat + 1 < memSize := by
    by_contra hn
    have e : s.beginStep.fetch = _ := State.fetch_out (s := s.beginStep) (Nat.le_of_not_lt hn)
    rw [step, e] at h
    cases h
  have hf := State.fetches_of_lt hlt
  have e : s.beginStep.fetch = _ := State.fetch_of_fetches (s := s.beginStep) hf
  rw [step, e] at h
  simp only [decodeForStep] at h
  cases hd : decode s.cfg.profile (wordOfBytes (s.byteAt s.pc.toNat) (s.byteAt (s.pc.toNat + 1))) with
  | error _ => rw [hd] at h; cases h
  | ok i => rw [hd] at h; exact ⟨_, i, hf, hd, h⟩

/-! ### PROFILE gates decode only -/

theorem Memory.get_setProfile (c : Config) (p : Profile) (m : Memory) (a : Nat) :
    Memory.get { c with profile := p } m a = m.get c a := by
  induction m with
  | nil => rfl
  | cons q m ih => obtain ⟨b, v⟩ := q; simp only [Memory.get, ih]

@[simp] theorem State.setProfile_byteAt (s : State) (p : Profile) (a : Nat) :
    (s.setProfile p).byteAt a = s.byteAt a := Memory.get_setProfile ..

theorem State.setProfile_setBytes (s : State) (p : Profile) (a : Nat) (bs : List Byte) :
    (s.setProfile p).setBytes a bs = (s.setBytes a bs).setProfile p := by
  induction bs generalizing s a with
  | nil => rfl
  | cons b bs ih =>
    have e : (s.setProfile p).setByte a b = (s.setByte a b).setProfile p := by
      unfold State.setByte; split <;> rfl
    simp only [State.setBytes, e, ih]

end Sys2Proof.Machine
end

