-- ==== Sys2Proof/Tests/Slice0.lean ====
section
/-! SUPPORT. The model's own tests. Expected results are taken from the rules' examples and from
95_test_vectors.md, which cites the rule each follows from. -/

namespace Sys2Proof.Tests

-- One theorem at a time: a thread for each of them takes more memory than the check allows.
set_option Elab.async false

open Sys2Proof.Machine

/-! ### Helpers -/

/-- A CORE of profile FULL at power-on, the other parameters at their defaults. -/
def full : State := State.powerOn { Config.default with profile := .full }
def fullShiftVy : State := State.powerOn { Config.default with profile := .full, shiftUsesVy := true }
def fullJumpVx : State := State.powerOn { Config.default with profile := .full, jump0UsesVx := true }
def xwrap : State := State.powerOn { Config.default with spriteXwrap := true }

/-- The next state of an answer. -/
def next? : Answer → Option State
  | .next t => some t
  | .fault _ | .refused _ => none

/-- The fault of an answer. -/
def fault? : Answer → Option Fault
  | .fault f => some f
  | .next _ | .refused _ => none

/-- The state after one step on the word, placed at pc. -/
def after (s : State) (w : Nat) : Option State := next? (step (s.withFetchWord 16 w))

/-- The fault of one step on the word, stored at pc with the profile left as it is. -/
def faultOf (s : State) (w : Word) : Option Fault := fault? (step (s.setBytes s.pc.toNat (bytesOfWord w)))

theorem next_of_isSome {a : Answer} (h : (next? a).isSome = true) : ∃ t, a = .next t := by
  cases a with
  | next t => exact ⟨t, rfl⟩
  | fault _ => cases h
  | refused _ => cases h

theorem next_of_any {a : Answer} {p : State → Bool} (h : (next? a).any p = true) : ∃ t, a = .next t ∧ p t = true := by
  cases a with
  | next t => exact ⟨t, rfl, h⟩
  | fault _ => cases h
  | refused _ => cases h

theorem fault_of_eq {a : Answer} {f : Fault} (h : fault? a = some f) : a = .fault f := by
  cases a with
  | next _ => cases h
  | fault _ => injection h with h; rw [h]
  | refused _ => cases h

/-! ### WellFormed: what each check refuses -/

theorem test_wf_full_row_refused_under_minimal :
    (Instr.subReg 0 1).wf .minimal = false ∧ (Instr.subReg 0 1).wf .full = true ∧
      (Instr.addReg 0 1).wf .minimal = true := by decide

theorem test_wf_ranges : regInRange 16 = false ∧ regInRange 15 = true ∧ nInRange 16 = false ∧
    nInRange 15 = true ∧ nnInRange 256 = false ∧ nnInRange 255 = true ∧ nnnInRange 4096 = false ∧
    nnnInRange 4095 = true := by decide

/-! ### Decode: a word of every row, written out from section 3 of 30_encoding.md -/

theorem test_decode_control :
    decode .minimal 0x00EE#16 = .ok .ret ∧ decode .minimal 0x1234#16 = .ok (.jp 0x234#12) ∧
    decode .minimal 0x2ABC#16 = .ok (.call 0xABC#12) ∧ decode .full 0x3A07#16 = .ok (.seImm 0xA#4 0x07#8) ∧
    decode .full 0x4BF1#16 = .ok (.sneImm 0xB#4 0xF1#8) ∧ decode .full 0x5C10#16 = .ok (.seReg 0xC#4 0x1#4) ∧
    decode .full 0x92E0#16 = .ok (.sneReg 0x2#4 0xE#4) ∧ decode .full 0xB7FE#16 = .ok (.jpV0 0x7FE#12) := by
  decide

theorem test_decode_alu_minimal :
    decode .minimal 0x61FE#16 = .ok (.ldImm 0x1#4 0xFE#8) ∧
    decode .minimal 0x7E80#16 = .ok (.addImm 0xE#4 0x80#8) ∧
    decode .minimal 0x8AB0#16 = .ok (.ldReg 0xA#4 0xB#4) ∧ decode .minimal 0x81F1#16 = .ok (.orReg 0x1#4 0xF#4) ∧
    decode .minimal 0x8F12#16 = .ok (.andReg 0xF#4 0x1#4) ∧
    decode .minimal 0x8673#16 = .ok (.xorReg 0x6#4 0x7#4) ∧
    decode .minimal 0x8014#16 = .ok (.addReg 0x0#4 0x1#4) := by decide

theorem test_decode_alu_full :
    decode .full 0x8235#16 = .ok (.subReg 0x2#4 0x3#4) ∧ decode .full 0x8456#16 = .ok (.shr 0x4#4 0x5#4) ∧
    decode .full 0x8987#16 = .ok (.subn 0x9#4 0x8#4) ∧ decode .full 0x8CDE#16 = .ok (.shl 0xC#4 0xD#4) ∧
    decode .full 0xC30F#16 = .ok (.rnd 0x3#4 0x0F#8) := by decide

theorem test_decode_memory_and_display :
    decode .minimal 0xA5C3#16 = .ok (.ldI 0x5C3#12) ∧ decode .minimal 0xF21E#16 = .ok (.addI 0x2#4) ∧
    decode .minimal 0xF955#16 = .ok (.storeRegs 0x9#4) ∧ decode .minimal 0xFE65#16 = .ok (.loadRegs 0xE#4) ∧
    decode .full 0xF429#16 = .ok (.ldF 0x4#4) ∧ decode .full 0xF133#16 = .ok (.ldB 0x1#4) ∧
    decode .minimal 0x00E0#16 = .ok .cls ∧ decode .minimal 0xD3B7#16 = .ok (.drw 0x3#4 0xB#4 0x7#4) := by decide

theorem test_decode_timers_and_keys :
    decode .full 0xF507#16 = .ok (.ldVxDt 0x5#4) ∧ decode .full 0xF70A#16 = .ok (.ldVxK 0x7#4) ∧
    decode .full 0xF815#16 = .ok (.ldDtVx 0x8#4) ∧ decode .full 0xFD18#16 = .ok (.ldStVx 0xD#4) ∧
    decode .full 0xE29E#16 = .ok (.skp 0x2#4) ∧ decode .full 0xEBA1#16 = .ok (.sknp 0xB#4) := by decide

theorem test_decode_refuses :
    decode .full 0x0000#16 = .error (.noRow 0x0000#16) ∧ decode .full 0x01E0#16 = .error (.noRow 0x01E0#16) ∧
    decode .full 0x5121#16 = .error (.noRow 0x5121#16) ∧ decode .full 0x800F#16 = .error (.noRow 0x800F#16) ∧
    decode .full 0xE000#16 = .error (.noRow 0xE000#16) ∧ decode .full 0xFFFF#16 = .error (.noRow 0xFFFF#16) ∧
    decode .minimal 0xF033#16 = .error (.fullOnly 0xF033#16) ∧ decodeBytes .full [0x00#8] = .error .truncated ∧
    decodeBytes .full [] = .error .truncated := by decide

/-- The word's first byte is the high one (R209), and the rest of the bytes is handed back. -/
theorem test_decode_bytes : decodeBytes .minimal [0x60#8, 0x05#8, 0x61#8] = .ok (.ldImm 0x0#4 0x05#8, [0x61#8]) ∧
    decodeTableWord 16 0x6005 = some (.ldImm 0x0#4 0x05#8) ∧ decodeTableWord 16 0x0000 = none := by decide

/-! ### Fetch and faults (95_test_vectors.md 2.1) -/

theorem test_fetch_illegal : faultOf State.reset 0x0000#16 = some (.unimplementedOpcode 0x0000#16) ∧
    faultOf State.reset 0x3000#16 = some (.unimplementedOpcode 0x3000#16) ∧
    faultOf State.reset 0x8005#16 = some (.unimplementedOpcode 0x8005#16) ∧
    faultOf full 0x9121#16 = some (.unimplementedOpcode 0x9121#16) := by decide +kernel

theorem test_fetch_bounds : faultOf (full.setPc 0xFFF#16) 0x6001#16 = some (.memoryOutOfBounds 0x1000) ∧
    faultOf (full.setPc 0x1000#16) 0x6001#16 = some (.memoryOutOfBounds 0x1000) ∧
    faultOf (full.setPc 0x10FE#16) 0x6001#16 = some (.memoryOutOfBounds 0x10FE) ∧
    (after (full.setPc 0xFFE#16) 0x6001).map (fun t => (t.getV 0x0#4, t.pc)) = some (0x01#8, 0x1000#16) ∧
    (after (full.setPc 0x201#16) 0x6107).map (fun t => (t.getV 0x1#4, t.pc)) = some (0x07#8, 0x203#16) := by
  decide +kernel

/-! ### Control flow (2.2) -/

theorem test_jp : (after (full.setPc 0x200#16) 0x1234).map (·.pc) = some 0x234#16 := by decide +kernel

theorem test_call : (after ({ full with sp := 15 }.setPc 0x400#16) 0x2300).map
    (fun t => (t.stack[15], t.sp.val, t.pc)) = some (0x402#16, 16, 0x300#16) ∧
    faultOf { full with sp := 16 } 0x2300#16 = some .stackOverflow := by decide +kernel

theorem test_ret : (after ({ full with sp := 1, stack := full.stack.set 0 0x206#16 }.setPc 0x20E#16) 0x00EE).map
    (fun t => (t.sp.val, t.pc, t.stack[0])) = some (0, 0x206#16, 0x206#16) ∧
    faultOf full 0x00EE#16 = some .stackUnderflow := by decide +kernel

theorem test_se_imm : let s := (full.setV 0x3#4 0x07#8).setPc 0x300#16
    (after s 0x3307).map (·.pc) = some 0x304#16 ∧ (after s 0x3308).map (·.pc) = some 0x302#16 := by decide +kernel

theorem test_sne_imm : let s := (full.setV 0x3#4 0x07#8).setPc 0x300#16
    (after s 0x4307).map (·.pc) = some 0x302#16 ∧ (after s 0x4308).map (·.pc) = some 0x304#16 := by decide +kernel

theorem test_se_reg : let s := ((full.setV 0x1#4 0x10#8).setV 0x2#4 0x10#8).setPc 0x300#16
    (after s 0x5120).map (·.pc) = some 0x304#16 ∧ (after s 0x5130).map (·.pc) = some 0x302#16 := by decide +kernel

theorem test_sne_reg : let s := ((full.setV 0x1#4 0x10#8).setV 0x2#4 0x11#8).setPc 0x300#16
    (after s 0x9120).map (·.pc) = some 0x304#16 ∧ (after s 0x9110).map (·.pc) = some 0x302#16 := by decide +kernel

theorem test_jp_v0 : (after (full.setV 0x0#4 0xFF#8) 0xBF80).map (·.pc) = some 0x107F#16 ∧
    (after ((fullJumpVx.setV 0x3#4 0x10#8).setV 0x0#4 0x01#8) 0xB300).map (·.pc) = some 0x310#16 := by
  decide +kernel

/-! ### ALU (2.3): VF starts at 0x55 where the row does not set it -/

/-- V0, V1 and VF set, FULL. -/
def abf (a b f : Byte) : State := ((full.setV 0x0#4 a).setV 0x1#4 b).setV 0xF#4 f
/-- V0, VF and pc after the step. -/
def v0f (s : State) (w : Nat) : Option (Byte × Byte × Word) :=
  (after s w).map fun t => (t.getV 0x0#4, t.getV 0xF#4, t.pc)

theorem test_ld_imm : v0f (abf 0x00 0x00 0x55) 0x6005 = some (0x05#8, 0x55#8, 0x202#16) ∧
    v0f (abf 0x00 0x00 0x55) 0x6F42 = some (0x00#8, 0x42#8, 0x202#16) := by decide +kernel

theorem test_add_imm : v0f (abf 0x05 0x00 0x55) 0x70FF = some (0x04#8, 0x55#8, 0x202#16) ∧
    v0f (abf 0x00 0x00 0xFF) 0x7F01 = some (0x00#8, 0x00#8, 0x202#16) := by decide +kernel

theorem test_copy_and_bitwise : v0f (abf 0x00 0x3C 0x55) 0x8010 = some (0x3C#8, 0x55#8, 0x202#16) ∧
    v0f (abf 0xF0 0x0F 0x55) 0x8011 = some (0xFF#8, 0x55#8, 0x202#16) ∧
    v0f (abf 0xF0 0x3C 0x55) 0x8012 = some (0x30#8, 0x55#8, 0x202#16) ∧
    v0f (abf 0xFF 0x0F 0x55) 0x8013 = some (0xF0#8, 0x55#8, 0x202#16) := by decide +kernel

theorem test_add_reg_carry : v0f (abf 0x7F 0x81 0x55) 0x8014 = some (0x00#8, 0x01#8, 0x202#16) ∧
    v0f (abf 0x7F 0x80 0x55) 0x8014 = some (0xFF#8, 0x00#8, 0x202#16) := by decide +kernel

/-- X = F keeps the sum; Y = F uses VF's value before the step. -/
theorem test_add_reg_vf : v0f (abf 0x00 0x90 0x80) 0x8F14 = some (0x00#8, 0x10#8, 0x202#16) ∧
    v0f (abf 0x10 0x00 0x05) 0x80F4 = some (0x15#8, 0x00#8, 0x202#16) := by decide +kernel

theorem test_sub : v0f (abf 0x05 0x07 0x55) 0x8015 = some (0xFE#8, 0x00#8, 0x202#16) ∧
    v0f (abf 0x33 0x33 0x55) 0x8015 = some (0x00#8, 0x01#8, 0x202#16) ∧
    v0f (abf 0x00 0x02 0x09) 0x8F15 = some (0x00#8, 0x07#8, 0x202#16) := by decide +kernel

theorem test_shr : v0f (abf 0x05 0x00 0x55) 0x8006 = some (0x02#8, 0x01#8, 0x202#16) ∧
    v0f ((fullShiftVy.setV 0x0#4 0xFF#8).setV 0x1#4 0x04#8) 0x8016 = some (0x02#8, 0x00#8, 0x202#16) := by
  decide +kernel

theorem test_subn : v0f (abf 0x05 0x07 0x55) 0x8017 = some (0x02#8, 0x01#8, 0x202#16) ∧
    v0f (abf 0x07 0x05 0x55) 0x8017 = some (0xFE#8, 0x00#8, 0x202#16) := by decide +kernel

theorem test_shl : v0f (abf 0x81 0x00 0x55) 0x800E = some (0x02#8, 0x01#8, 0x202#16) ∧
    v0f ((fullShiftVy.setV 0x0#4 0x00#8).setV 0x1#4 0xC0#8) 0x801E = some (0x80#8, 0x01#8, 0x202#16) := by
  decide +kernel

/-- The effect for the drawn byte 0xA7; the step itself draws a free value and completes. -/
theorem test_rnd : (rndWith 0xA7#8 0x3#4 0x0F#8 full).getV 0x3#4 = 0x07#8 ∧
    (after full 0xC30F).map (fun t => (t.pc, t.draws)) = some (0x202#16, 1) := by decide +kernel

/-! ### Address register and memory (2.4) -/

theorem test_ld_i : (after full 0xA300).map (·.i) = some 0x300#16 := by decide +kernel

theorem test_add_i : (after ((full.setI 0x0FFF#16).setV 0x0#4 0x01#8) 0xF01E).map (·.i) = some 0x1000#16 ∧
    (after ((full.setI 0xFFFF#16).setV 0x0#4 0x01#8) 0xF01E).map (fun t => (t.i, t.getV 0xF#4)) =
      some (0x0000#16, 0x00#8) := by decide +kernel

theorem test_store : (after ((abf 0x11 0x22 0x00).setI 0x300#16) 0xF155).map
    (fun t => (t.bytesAt 0x300 3, t.i)) = some ([0x11#8, 0x22#8, 0x00#8], 0x300#16) ∧
    faultOf (full.setI 0x0FF8#16) 0xF855#16 = some (.memoryOutOfBounds 0x1000) := by decide +kernel

theorem test_load : (after ((full.setBytes 0x300 [0x11#8, 0x22#8]).setI 0x300#16) 0xF165).map
    (fun t => (t.getV 0x0#4, t.getV 0x1#4, t.i)) = some (0x11#8, 0x22#8, 0x300#16) ∧
    faultOf (full.setI 0xFFFF#16) 0xF065#16 = some (.memoryOutOfBounds 0xFFFF) := by decide +kernel

theorem test_ld_f : (after (full.setV 0x4#4 0x1A#8) 0xF429).map (·.i) = some 0x0032#16 ∧
    (after ((State.powerOn { Config.default with fontBase := 0x50 }).setV 0x4#4 0x0F#8) 0xF429).map (·.i) =
      some 0x009B#16 := by decide +kernel

theorem test_ld_b : (after ((full.setV 0x1#4 0xFF#8).setI 0x300#16) 0xF133).map (·.bytesAt 0x300 3) =
    some [0x02#8, 0x05#8, 0x05#8] ∧
    faultOf (full.setI 0x0FFE#16) 0xF133#16 = some (.memoryOutOfBounds 0x1000) := by decide +kernel

/-! ### Display (2.5) -/

/-- The indices of the pixels that are on. -/
def onFrom : Nat → List Bool → List Nat
  | _, [] => []
  | k, p :: ps => if p then k :: onFrom (k + 1) ps else onFrom (k + 1) ps
def pixelsOn (s : State) : List Nat := onFrom 0 s.fb.pixels

theorem test_cls : (after (full.setFb (full.fb.set 7 true)) 0x00E0).map (fun t => (pixelsOn t, t.redraw)) =
    some ([], true) := by decide +kernel

/-- Sprite FF 81 at I, V0 = 60, V1 = 31: clipped, or wrapped at the right edge with SPRITE_XWRAP. -/
theorem test_drw_edges :
    let prepare (s : State) := (((s.setBytes 0x300 [0xFF#8, 0x81#8]).setI 0x300#16).setV 0x0#4 60#8).setV 0x1#4 31#8
    (after (prepare State.reset) 0xD012).map (fun t => (pixelsOn t, t.getV vf, t.redraw)) =
      some ([2044, 2045, 2046, 2047], 0x00#8, true) ∧
    (after (prepare xwrap) 0xD012).map pixelsOn =
      some [1984, 1985, 1986, 1987, 2044, 2045, 2046, 2047] := by decide +kernel

/-- The collision is sticky, X = F takes the origin from the old VF, and an N of 0 writes VF and no pixel. -/
theorem test_drw_flag :
    let s := ((full.setFb (full.fb.set 0 true)).setBytes 0x300 [0x80#8, 0x80#8]).setI 0x300#16
    (after s 0xD012).map (fun t => (pixelsOn t, t.getV vf)) = some ([64], 0x01#8) ∧
    (after ((s.setFb full.fb).setV vf 0x3C#8) 0xDF01).map (fun t => (pixelsOn t, t.getV vf)) = some ([60], 0x00#8) ∧
    (after ((full.setI 0xFFFF#16).setV vf 0x01#8) 0xD010).map (fun t => (pixelsOn t, t.getV vf, t.redraw)) =
      some ([], 0x00#8, true) ∧
    faultOf (full.setI 0x0FFE#16) 0xD003#16 = some (.memoryOutOfBounds 0x1000) := by decide +kernel

/-! ### Timers and input (2.6) -/

theorem test_timers : (after (full.setDt 0x39#8) 0xF507).map (·.getV 0x5#4) = some 0x39#8 ∧
    (after (full.setV 0x0#4 0x3C#8) 0xF015).map (·.dt) = some 0x3C#8 ∧
    (after (full.setV 0x0#4 0x02#8) 0xF018).map (fun t => (t.st, t.soundActive)) = some (0x02#8, true) := by
  decide +kernel

theorem test_tick : ((State.reset.setDt 0x05#8).command .tick).1.dt = 0x04#8 ∧
    (State.reset.command .tick).1.dt = 0x00#8 ∧ ((State.reset.setSt 0x01#8).command .tick).1.soundActive = false := by
  decide +kernel

theorem test_ld_k : (after ((full.setKey (some 7#4)).setPc 0x300#16) 0xF30A).map
    (fun t => (t.getV 0x3#4, t.key, t.pc)) = some (0x07#8, none, 0x302#16) ∧
    (after (full.setPc 0x300#16) 0xF30A).map (·.pc) = some 0x300#16 := by decide +kernel

/-- V2, latch and the two words: pc and latch after. -/
def keyed (v2 : Byte) (k : Option Nibble) (w : Nat) : Option (Word × Option Nibble) :=
  (after (((full.setV 0x2#4 v2).setKey k).setPc 0x300#16) w).map fun t => (t.pc, t.key)

theorem test_skp : keyed 0x05 (some 5#4) 0xE29E = some (0x304#16, none) ∧
    keyed 0x06 (some 5#4) 0xE29E = some (0x302#16, none) ∧ keyed 0x05 none 0xE29E = some (0x302#16, none) := by
  decide +kernel

theorem test_sknp : keyed 0x15 (some 5#4) 0xE2A1 = some (0x304#16, none) ∧
    keyed 0x05 (some 5#4) 0xE2A1 = some (0x302#16, none) ∧ keyed 0x05 none 0xE2A1 = some (0x304#16, none) := by
  decide +kernel

/-! ### Host commands (2.7) -/

theorem test_load_program : ((abf 0x12 0x00 0x00).loadProgram [0x00#8, 0xE0#8]).map
    (fun t => (t.getV 0x0#4, t.pc, t.bytesAt 0x200 3, t.bytesAt 0 5)) =
      some (0x00#8, 0x200#16, [0x00#8, 0xE0#8, 0x00#8], [0xF0#8, 0x90#8, 0x90#8, 0x90#8, 0xF0#8]) := by
  decide +kernel

theorem test_step_result : (State.reset.command .step).2 =
      .stepped { ok := false, redraw := false, faultCode := 3#3, faultWord := 0x0000#16, faultAddr := 0x0000#16 } ∧
    ((full.setPc 0x10FE#16).command .step).2 =
      .stepped { ok := false, redraw := false, faultCode := 4#3, faultWord := 0x0000#16, faultAddr := 0x10FE#16 } := by
  decide +kernel

/-! ### Memory's canonical form -/

/-- A byte that is written back to its reset contents is listed no more, and entries stand in rising order. -/
theorem test_memory_canonical :
    (((full.setByte 0x300 0x01#8).setByte 0x200 0x02#8).setByte 0x300 0x00#8).mem = [(0x200, 0x02#8)] ∧
    ((full.setByte 0x301 0x01#8).setByte 0x001 0x02#8).mem = [(0x001, 0x02#8), (0x301, 0x01#8)] ∧
    (full.setByte 0x000 0xF0#8).mem = [] := by decide +kernel

/-! ### Assembly (30_encoding.md R310, R311) -/

/-- The first lines of program P3 of 95_test_vectors.md, the wait for a key, and refusals. -/
theorem test_assemble :
    assemble [.op .CLS [], .op .LD [.i, .num 0x20E], .op .LD [.v 0, .num 60], .op .DRW [.v 0, .v 1, .num 2],
      .db [0xFF, 0x81]] =
      some [0x00#8, 0xE0#8, 0xA2#8, 0x0E#8, 0x60#8, 0x3C#8, 0xD0#8, 0x12#8, 0xFF#8, 0x81#8] ∧
    assembleInstr .SHR [.v 4] = some (.shr 0x4#4 0x0#4) ∧ assembleInstr .LD [.v 7, .k] = some (.ldVxK 0x7#4) ∧
    assembleInstr .JP [.v 0, .num 0x300] = some (.jpV0 0x300#12) ∧ assembleInstr .JP [.v 1, .num 0x300] = none ∧
    assembleInstr .LD [.v 16, .num 1] = none ∧ assembleLine (.db [0x100]) = none := by decide

/-! ### Witnesses: for every statement with hypotheses, states and operands that meet them all, at the edges of each
clause -/

/-- FULL, with the word placed at pc and I, V0 set. -/
def at_ (w : Nat) (i : Word) (v0 : Byte) : State := ((full.withFetchWord 16 w).setI i).setV 0x0#4 v0

theorem fetches_of {s : State} {w : Word} (h : decide (s.pc.toNat + 1 < memSize ∧
    w.extractLsb' 8 8 = s.byteAt s.pc.toNat ∧ w.extractLsb' 0 8 = s.byteAt (s.pc.toNat + 1)) = true) :
    s.Fetches w := by
  have := of_decide_eq_true h
  exact this

theorem witness_StandardFontStandsAtReset : Config.default.fontData = standardFont ∧
    { Config.default with fontBase := 0x1B0 }.fontData = standardFont := ⟨rfl, rfl⟩

/-- An instruction that completes, and a jump to the largest pc, from states that meet the invariant. -/
theorem witness_StepKeepsInvariant :
    (State.reset.Inv ∧ ∃ t, step (State.reset.withFetchWord 16 0xF055) = .next t) ∧
    ((at_ 0xBFFF 0x0000#16 0xFF#8).Inv ∧ ∃ t, step (at_ 0xBFFF 0x0000#16 0xFF#8) = .next t ∧
      decide (t.pc.toNat = pcMax) = true) :=
  ⟨⟨⟨by decide +kernel, by decide +kernel, by decide +kernel⟩, next_of_isSome (by decide +kernel)⟩,
    ⟨by decide +kernel, by decide +kernel, by decide +kernel⟩, next_of_any (by decide +kernel)⟩

theorem witness_CommandScheduleKeepsInvariant : full.Inv := ⟨by decide +kernel, by decide +kernel, by decide +kernel⟩

theorem witness_DecodeOfEncode :
    (Instr.drw 0xF#4 0xF#4 0xF#4).wf .minimal = true ∧ (Instr.shl 0xF#4 0xF#4).wf .minimal = false := by decide

theorem witness_EncodeOfDecode : decode .full 0x8CDE#16 = .ok (.shl 0xC#4 0xD#4) := by decide

/-- A row that a word hits; a word for each of the five illegal shapes; a word that only FULL has. -/
theorem witness_OpcodeRowsAreDisjoint :
    ((Instr.cls.row ∈ opcodeTable) ∧ Instr.cls.row.hits 0x00E0#16 = true) ∧
    (fieldF 0x00E1#16 = 0x0#4 ∧ (0x00E1#16 ≠ 0x00E0#16) ∧ (0x00E1#16 ≠ 0x00EE#16)) ∧
    (fieldF 0x9121#16 = 0x9#4 ∧ fieldN 0x9121#16 ≠ 0x0#4) ∧
    (fieldF 0x8008#16 = 0x8#4 ∧ fieldN 0x8008#16 ∈ [0x8#4, 0x9#4, 0xA#4, 0xB#4, 0xC#4, 0xD#4, 0xF#4]) ∧
    (fieldF 0xE000#16 = 0xE#4 ∧ fieldNN 0xE000#16 ∉ [0x9E#8, 0xA1#8]) ∧
    (fieldF 0xFFFF#16 = 0xF#4 ∧
      fieldNN 0xFFFF#16 ∉ [0x07#8, 0x0A#8, 0x15#8, 0x18#8, 0x1E#8, 0x29#8, 0x33#8, 0x55#8, 0x65#8]) ∧
    (decode .full 0x3000#16 = .ok (.seImm 0x0#4 0x00#8) ∧ (Instr.seImm 0x0#4 0x00#8).rowProfile = .full) := by
  decide +kernel

/-- At the last address a word can be fetched from. -/
theorem witness_StepRunsTheDecodedInstruction :
    ((full.setPc 0xFFE#16).withFetchWord 16 0x6001).Fetches 0x6001#16 ∧
    decode .full 0x6001#16 = .ok (.ldImm 0x0#4 0x01#8) := ⟨fetches_of (by decide +kernel), by decide⟩

theorem witness_IllegalWordRaisesUnimplementedOpcode :
    (State.reset.Fetches 0x0000#16 ∧ ¬RowOf .minimal 0x0000#16) ∧
    ((State.reset.setBytes 0x200 [0x30#8, 0x00#8]).Fetches 0x3000#16 ∧ ¬RowOf .minimal 0x3000#16) :=
  ⟨⟨fetches_of (by decide +kernel), by unfold RowOf; decide +kernel⟩,
    fetches_of (by decide +kernel), by unfold RowOf; decide +kernel⟩

/-- Fetch, decode and each instruction's own check, at the lowest operand that stops it, and a step that meets none of
the grounds for a fault. -/
theorem witness_StepFaultsInStepOrder :
    memSize ≤ (full.setPc 0xFFF#16).pc.toNat + 1 ∧
    (full.Fetches 0x0000#16 ∧ ¬RowOf .full 0x0000#16) ∧
    (at_ 0x00EE 0 0).Fetches 0x00EE#16 ∧ (at_ 0x00EE 0 0).sp.val = 0 ∧
    { at_ 0x2300 0 0 with sp := 16 }.Fetches 0x2300#16 ∧
    ((at_ 0xF055 0x1000#16 0).Fetches 0xF055#16 ∧ memSize ≤ (at_ 0xF055 0x1000#16 0).i.toNat + (0x0#4 : Reg).toNat) ∧
    ((at_ 0xFF65 0x0FF1#16 0).Fetches 0xFF65#16 ∧ memSize ≤ (at_ 0xFF65 0x0FF1#16 0).i.toNat + (0xF#4 : Reg).toNat) ∧
    ((at_ 0xD001 0x1000#16 0).Fetches 0xD001#16 ∧
      memSize ≤ (at_ 0xD001 0x1000#16 0).i.toNat + (0x1#4 : Nibble).toNat - 1) ∧
    ((at_ 0xF033 0x0FFE#16 0).Fetches 0xF033#16 ∧ memSize ≤ (at_ 0xF033 0x0FFE#16 0).i.toNat + 2) ∧
    ((at_ 0xD001 0x0FFF#16 0).Fetches 0xD001#16 ∧ decode .full 0xD001#16 = .ok (.drw 0x0#4 0x0#4 0x1#4) ∧
      ¬(memSize ≤ (at_ 0xD001 0x0FFF#16 0).i.toNat + (0x1#4 : Nibble).toNat - 1)) := by
  refine ⟨by decide +kernel, ⟨fetches_of (by decide +kernel), by unfold RowOf; decide +kernel⟩,
    fetches_of (by decide +kernel), by decide +kernel, fetches_of (by decide +kernel),
    ⟨fetches_of (by decide +kernel), by decide +kernel⟩, ⟨fetches_of (by decide +kernel), by decide +kernel⟩,
    ⟨fetches_of (by decide +kernel), by decide +kernel⟩, ⟨fetches_of (by decide +kernel), by decide +kernel⟩,
    fetches_of (by decide +kernel), by decide +kernel, by decide +kernel⟩

theorem witness_FaultingStepChangesNothing : step State.reset = .fault (.unimplementedOpcode 0x0000#16) :=
  fault_of_eq (by decide +kernel)

theorem witness_FaultIsRaisedAgain : step (at_ 0x00EE 0 0) = .fault .stackUnderflow ∧
    ∀ c ∈ [Command.tick, .setKey 5#4, .step, .clearKey, .framebuffer], c.startsOver = false :=
  ⟨fault_of_eq (by decide +kernel), by decide⟩

theorem witness_StepResultCarriesCodeAndPayload :
    (∃ t, step (at_ 0x00E0 0 0) = .next t) ∧ step (at_ 0x00EE 0 0) = .fault .stackUnderflow ∧
    step { at_ 0x2300 0 0 with sp := 16 } = .fault .stackOverflow ∧
    step full = .fault (.unimplementedOpcode 0x0000#16) ∧
    step (at_ 0xF065 0xFFFF#16 0) = .fault (.memoryOutOfBounds 0xFFFF) :=
  ⟨next_of_isSome (by decide +kernel), fault_of_eq (by decide +kernel), fault_of_eq (by decide +kernel),
    fault_of_eq (by decide +kernel), fault_of_eq (by decide +kernel)⟩

/-- CLS and DRW report it, an LD that runs after a CLS does not, a fault has no report. -/
theorem witness_RedrawIsReportedByClsAndDrwOnly :
    ((at_ 0x00E0 0 0).Fetches 0x00E0#16 ∧ ∃ t, step (at_ 0x00E0 0 0) = .next t) ∧
    ((at_ 0xD000 0 0).Fetches 0xD000#16 ∧ ∃ t, step (at_ 0xD000 0 0) = .next t) ∧
    (((at_ 0x6001 0 0).setRedraw true).Fetches 0x6001#16 ∧ ∃ t, step ((at_ 0x6001 0 0).setRedraw true) = .next t) ∧
    step (at_ 0x00EE 0 0) = .fault .stackUnderflow :=
  ⟨⟨fetches_of (by decide +kernel), next_of_isSome (by decide +kernel)⟩,
    ⟨fetches_of (by decide +kernel), next_of_isSome (by decide +kernel)⟩,
    ⟨fetches_of (by decide +kernel), next_of_isSome (by decide +kernel)⟩, fault_of_eq (by decide +kernel)⟩

theorem witness_SkipsMovePcByFourOrTwo : (0x1#4 : Nibble) ≠ 0x0#4 ∧ (0xF#4 : Nibble) ≠ 0x0#4 := by decide

theorem witness_CallPushesTheReturnAddress :
    { full with sp := 15 }.sp.val < 16 ∧ { full with sp := 16 }.sp.val = 16 := by decide

theorem witness_ReturnPopsIntoPc : 0 < { full with sp := 1 }.sp.val ∧ full.sp.val = 0 := by decide

theorem witness_CallThenReturnComesBack : full.sp.val < 16 ∧ { full with sp := 15 }.sp.val < 16 := by decide

theorem witness_ShiftsByOneCaptureTheBit :
    0x04#8 = (if (fullShiftVy.setV 0x1#4 0x04#8).cfg.shiftUsesVy = true then (fullShiftVy.setV 0x1#4 0x04#8).getV 0x1#4
      else (fullShiftVy.setV 0x1#4 0x04#8).getV 0x0#4) ∧
    0x81#8 = (if (full.setV 0x0#4 0x81#8).cfg.shiftUsesVy = true then (full.setV 0x0#4 0x81#8).getV 0x1#4
      else (full.setV 0x0#4 0x81#8).getV 0x0#4) := by decide +kernel

/-- The last range that fits and the first that does not. -/
theorem witness_StoreWritesRegistersAtI : (full.setI 0x0FF0#16).i.toNat + (0xF#4 : Reg).toNat < memSize ∧
    memSize ≤ (full.setI 0x0FF1#16).i.toNat + (0xF#4 : Reg).toNat := by decide +kernel

theorem witness_LoadReadsRegistersAtI : (full.setI 0x0FFF#16).i.toNat + (0x0#4 : Reg).toNat < memSize ∧
    memSize ≤ (full.setI 0xFFFF#16).i.toNat + (0x0#4 : Reg).toNat := by decide +kernel

theorem witness_StoreThenLoadIsIdentityOnRegisters :
    (full.setI 0x0FF0#16).i.toNat + (0xF#4 : Reg).toNat < memSize := by decide +kernel

theorem witness_BcdStoresThreeDigits :
    (full.setI 0x0FFD#16).i.toNat + 2 < memSize ∧ memSize ≤ (full.setI 0x0FFE#16).i.toNat + 2 := by decide +kernel

theorem witness_ByteAccessesAreBounded : memSize ≤ 4096 ∧ 4095 < memSize := by decide

/-- A store of the two bytes after it, and the three digits written there; the last pc at which both bytes exist. -/
theorem witness_StoredCodeIsFetchedNext :
    ((full.setI 0x0202#16).i.toNat = (full.setI 0x0202#16).pc.toNat + 2 ∧ 1 ≤ (0x1#4 : Reg).toNat ∧
      ∃ t, exec (.storeRegs 0x1#4) (full.setI 0x0202#16) = .next t) ∧
    (((full.setI 0x0FFD#16).setPc 0x0FFB#16).i.toNat = ((full.setI 0x0FFD#16).setPc 0x0FFB#16).pc.toNat + 2 ∧
      ∃ t, exec (.ldB 0x1#4) ((full.setI 0x0FFD#16).setPc 0x0FFB#16) = .next t) :=
  ⟨⟨by decide +kernel, by decide, next_of_isSome (by decide +kernel)⟩, by decide +kernel,
    next_of_isSome (by decide +kernel)⟩

theorem witness_EqualCellsAreEqualMemory : Memory.wf Config.default [(0x300, 0x01#8), (0xFFF, 0x02#8)] ∧
    ∀ a, a < memSize → Memory.get Config.default [(0x300, 0x01#8), (0xFFF, 0x02#8)] a =
      Memory.get Config.default [(0x300, 0x01#8), (0xFFF, 0x02#8)] a := ⟨by decide +kernel, fun _ _ => rfl⟩

/-- No rows, the last row at the last address, one row too many; a pixel that a sprite covers and one it does not. -/
theorem witness_DrwInvertsTheCoveredPixels :
    (0x0#4 : Nibble).toNat = 0 ∧ (full.setI 0x0FF1#16).i.toNat + (0xF#4 : Nibble).toNat - 1 < memSize ∧
    (1 ≤ (0xF#4 : Nibble).toNat ∧ memSize ≤ (full.setI 0x0FF2#16).i.toNat + (0xF#4 : Nibble).toNat - 1) ∧
    full.Covers 0x0#4 0x1#4 0x1#4 3 ∧ ¬full.Covers 0x0#4 0x1#4 0x0#4 3 ∧
    { full with fb := full.fb.set 3 true }.fb.get 3 = true := by
  refine ⟨by decide, by decide +kernel, ⟨by decide, by decide +kernel⟩, ⟨0, 3, 3, ?_⟩, ?_, by decide +kernel⟩
  · decide +kernel
  · rintro ⟨r, c, px, h, -⟩
    exact absurd h (Nat.not_lt_zero r)

/-- The glyph "0" at the origin held by V0 = V1 = 0, which the draw does not change. -/
theorem witness_DrawingTwiceRestoresTheScreen : ∃ t, exec (.drw 0x0#4 0x1#4 0x5#4) full = .next t ∧
    decide (t.spriteX 0x0#4 = full.spriteX 0x0#4 ∧ t.spriteY 0x1#4 = full.spriteY 0x1#4) = true :=
  next_of_any (by decide +kernel)

theorem witness_WaitForKeyTakesTheLatch : full.key = none ∧ (full.setKey (some 0xF#4)).key = some 0xF#4 := by decide

theorem witness_SetKeyEndsTheWait : (at_ 0xF30A 0 0).cfg.profile = .full ∧ (at_ 0xF30A 0 0).Fetches 0xF30A#16 :=
  ⟨by decide +kernel, fetches_of (by decide +kernel)⟩

theorem witness_TickAloneDecrementsTheTimers :
    ∃ t, exec (.ldDtVx 0x0#4) (full.setV 0x0#4 0x3C#8) = .next t ∧ decide (t.dt ≠ full.dt) = true :=
  next_of_any (by decide +kernel)

theorem witness_EveryInstructionKeepsItsFrame :
    (∃ t, exec (.storeRegs 0xF#4) full = .next t) ∧ (∃ t, exec (.drw 0x0#4 0x0#4 0xF#4) full = .next t) :=
  ⟨next_of_isSome (by decide +kernel), next_of_isSome (by decide +kernel)⟩

theorem witness_OnlyFlagInstructionsWriteVfUnnamed :
    ∃ t, exec (.subReg 0x0#4 0x1#4) full = .next t ∧ decide (t.getV vf ≠ full.getV vf) = true :=
  next_of_any (by decide +kernel)

theorem witness_MinimalStepIgnoresTimersLatchAndRandom :
    State.reset.cfg.profile = .minimal ∧ (State.reset.withFetchWord 16 0x6005).cfg.profile = .minimal := by
  decide +kernel

theorem witness_FullRunsWhatMinimalRuns : (State.reset.withFetchWord 16 0xF055).cfg.profile = .minimal ∧
    ∃ t, step (State.reset.withFetchWord 16 0xF055) = .next t := ⟨by decide +kernel, next_of_isSome (by decide +kernel)⟩

theorem witness_SelfJumpAndEmptyWaitStandStill :
    ((at_ 0x1200 0 0).Fetches (0x1#4 ++ 0x200#12) ∧ (0x200#12).toNat = (at_ 0x1200 0 0).pc.toNat) ∧
    ((at_ 0xF30A 0 0).cfg.profile = .full ∧ (at_ 0xF30A 0 0).Fetches (0xF#4 ++ 0x3#4 ++ 0x0A#8) ∧
      (at_ 0xF30A 0 0).key = none) :=
  ⟨⟨fetches_of (by decide +kernel), by decide +kernel⟩, by decide +kernel, fetches_of (by decide +kernel),
    by decide +kernel⟩

/-- The longest image that fits and the shortest that does not. -/
theorem witness_LoadProgramResetsAndCopies : (List.replicate 3584 0x12#8).length ≤ 4096 - 0x200 ∧
    4096 - 0x200 < (List.replicate 3585 0x12#8).length ∧ 3583 < (List.replicate 3584 0x12#8).length ∧
    (4095 < 0x200 ∨ 0x200 + (List.replicate 3583 0x12#8).length ≤ 4095) := by
  simp only [List.length_replicate]; decide

theorem witness_PlacedWordIsRunNext : (full.setPc 0x0FFE#16).pc.toNat + 1 < memSize ∧
    decode .full 0xF00A#16 = .ok (.ldVxK 0x0#4) := by decide +kernel

/-- A line that assembles, and operands one above each range. -/
theorem witness_AsmLineIsOneWord :
    assembleLine (.op .LD [.v 15, .num 0xFF]) = some [0x6F#8, 0xFF#8] ∧
    (Operand.num 0x1000 ∈ [Operand.i, .num 0x1000] ∧ 0x1000 ≤ 0x1000) ∧
    (Operand.v 3 ∈ [Operand.v 3, .num 0x100] ∧ Operand.num 0x100 ∈ [Operand.v 3, .num 0x100] ∧
      Mnemonic.ADD ≠ Mnemonic.JP) ∧
    (Operand.num 0x10 ∈ [Operand.v 0, .v 1, .num 0x10]) ∧ (Operand.v 16 ∈ [Operand.v 16] ∧ 16 ≤ 16) ∧
    (∃ n ∈ [0x100], 0x100 ≤ n) := by decide

end Sys2Proof.Tests
end

section
/-! The key commands (10_state.md R131): what each answers and the state it leaves. -/

namespace Sys2Proof.Machine

@[simp] theorem State.command_setKey (s : State) (code : Nibble) :
    s.command (.setKey code) = (s.setKey (some code), .ok) := rfl

@[simp] theorem State.command_clearKey (s : State) : s.command .clearKey = (s.setKey none, .ok) := rfl

/-- Settles O55, from the equations of the two key commands. -/
theorem keyCommandsChangeTheLatchOnly : Obligations.KeyCommandsChangeTheLatchOnly :=
  fun s code => ⟨s.command_setKey code, s.command_clearKey⟩

end Sys2Proof.Machine
end

section
/-! The font in memory at power-on, and the byte accesses MemRead and MemWrite (20_memory.md R203 to R206). -/

namespace Sys2Proof.Machine

/-! ### The font at power-on -/

/-- At power-on nothing has been written: every cell holds its reset contents. -/
@[simp] theorem State.powerOn_byteAt (c : Config) (a : Nat) : (State.powerOn c).byteAt a = c.resetByte a := rfl

/-- R206: byte `k` of FONT_DATA stands at FONT_BASE + k. -/
theorem resetByte_fontBase_add (c : Config) {k : Nat} (hk : k < 80) :
    c.resetByte (c.fontBase.val + k) = c.fontData[k] := by
  have inFont : c.fontBase.val ≤ c.fontBase.val + k ∧ c.fontBase.val + k < c.fontBase.val + 80 := by omega
  simp only [Config.resetByte, inFont, and_self, dite_true, Nat.add_sub_cancel_left]

/-- A range inside the font reads at power-on as that slice of FONT_DATA. -/
theorem State.powerOn_bytesAt_font (c : Config) {k n : Nat} (h : k + n ≤ 80) :
    (State.powerOn c).bytesAt (c.fontBase.val + k) n = (c.fontData.toList.drop k).take n := by
  apply List.ext_getElem
  · simp only [State.bytesAt_length, List.length_take, List.length_drop, Vector.length_toList]; omega
  · intro j hj _
    rw [State.bytesAt_length] at hj
    simp only [State.bytesAt, List.getElem_map, List.getElem_range, State.powerOn_byteAt, Nat.add_assoc,
      resetByte_fontBase_add c (show k + j < 80 by omega), List.getElem_take, List.getElem_drop, Vector.getElem_toList]

/-- Settles O2: each glyph is a slice of FONT_DATA, and the slices of the standard font are the rows of R206. -/
theorem standardFontStandsAtReset : Obligations.StandardFontStandsAtReset := by
  refine ⟨rfl, rfl, fun c hc => ?_⟩
  have glyphs : ∀ g ∈ List.range 16, (State.powerOn c).bytesAt (c.fontBase.val + 5 * g) 5 =
      (standardFont.toList.drop (5 * g)).take 5 := fun g hg => by
    have hg := List.mem_range.mp hg
    rw [State.powerOn_bytesAt_font c (by omega), hc]
  rw [List.map_congr_left glyphs]
  rfl

/-! ### One-byte accesses -/

/-- R203 below MEM_SIZE. -/
theorem State.memRead_ok (s : State) {a : Nat} (h : a < memSize) : s.memRead a = .ok (s.byteAt a) := by
  rw [State.memRead, checkRange_ok (.inr h)]

/-- R203 at MEM_SIZE and above. -/
theorem State.memRead_error (s : State) {a : Nat} (h : memSize ≤ a) :
    s.memRead a = .error (.memoryOutOfBounds a) := by
  rw [State.memRead, checkRange_error ⟨Nat.one_pos, h⟩, Nat.max_eq_left h]

/-- R204 below MEM_SIZE. -/
theorem State.memWrite_ok (s : State) {a : Nat} (b : Byte) (h : a < memSize) :
    s.memWrite a b = .ok (s.setByte a b) := s.writeRange_ok (.inr h)

/-- R204 at MEM_SIZE and above. -/
theorem State.memWrite_error (s : State) {a : Nat} (b : Byte) (h : memSize ≤ a) :
    s.memWrite a b = .error (.memoryOutOfBounds a) := by
  rw [State.memWrite, s.writeRange_error (bs := [b]) ⟨Nat.one_pos, h⟩, Nat.max_eq_left h]

/-- Settles O38: the two outcomes of each access, and the read-after-write law of a byte write. -/
theorem byteAccessesAreBounded : Obligations.ByteAccessesAreBounded := by
  refine fun s a b => ⟨fun h => ⟨s.memRead_error h, s.memWrite_error b h⟩,
    fun h => ⟨s.memRead_ok h, s.setByte a b, s.memWrite_ok b h, ?_, fun a' ha => ?_, ?_⟩⟩
  · rw [s.setByte_byteAt, if_pos ⟨rfl, h⟩]
  · rw [s.setByte_byteAt, if_neg fun e => ha e.1]
  · obtain ⟨m, hm⟩ := s.setByte_eq a b
    rw [hm, State.setMem_mem]

end Sys2Proof.Machine
end

section
/-! The decoder and the opcode map: what decodes is its instruction's encoding and matches that instruction's row,
the rows are disjoint, and the words that no row matches (30_encoding.md R304 to R309). -/

namespace Sys2Proof

variable {p : Profile} {w : Word} {i : Instr} {x y : Reg} {n : Nibble} {nn : Byte}

/-! ### decode in terms of decodeRow -/

theorem decode_noRow (h : decodeRow w = none) : decode p w = .error (.noRow w) := by
  simp only [decode, h]

/-- A word of a FULL row is refused under MINIMAL (R306). -/
theorem decode_minimal_fullOnly (h : decodeRow w = some i) (hi : i.rowProfile = .full) :
    decode .minimal w = .error (.fullOnly w) := by
  simp only [decode, h, Instr.wf, hi, Profile.admits, Bool.false_eq_true, if_false]

/-! ### What decodes is the encoding of its instruction -/

theorem encode_of_decodeFamily0 (h : decodeFamily0 w = some i) : encode i = w := by
  unfold decodeFamily0 at h
  split_ifs at h <;> cases h <;> subst w <;> rfl

theorem encode_of_decodeFamily8 (h : decodeFamily8 x y n = some i) : encode i = 0x8#4 ++ x ++ y ++ n := by
  unfold decodeFamily8 at h
  split_ifs at h <;> cases h <;> subst n <;> rfl

theorem encode_of_decodeFamilyE (h : decodeFamilyE x nn = some i) : encode i = 0xE#4 ++ x ++ nn := by
  unfold decodeFamilyE at h
  split_ifs at h <;> cases h <;> subst nn <;> rfl

theorem encode_of_decodeFamilyF (h : decodeFamilyF x nn = some i) : encode i = 0xF#4 ++ x ++ nn := by
  unfold decodeFamilyF at h
  split_ifs at h <;> cases h <;> subst nn <;> rfl

/-- The fields the decoder reads are the whole word, family by family. -/
theorem encode_of_decodeRow (h : decodeRow w = some i) : encode i = w := by
  simp only [decodeRow] at h
  split at h
  case h_1 => exact encode_of_decodeFamily0 h
  case h_9 hF => rw [encode_of_decodeFamily8 h, ← hF, ← splitXYN]
  case h_15 hF => rw [encode_of_decodeFamilyE h, ← hF, ← splitXK]
  case h_16 hF => rw [encode_of_decodeFamilyF h, ← hF, ← splitXK]
  case h_6 hF | h_10 hF =>
    split_ifs at h with hN
    cases h
    rw [encode, ← hF, ← hN, ← splitXYN]
  case h_14 hF => cases h; rw [encode, ← hF, ← splitXYN]
  case h_2 hF | h_3 hF | h_11 hF | h_12 hF => cases h; rw [encode, ← hF, ← splitA]
  case h_4 hF | h_5 hF | h_7 hF | h_8 hF | h_13 hF => cases h; rw [encode, ← hF, ← splitXK]
  case h_17 => cases h

/-! ### What decodes matches a row of the profile -/

theorem Instr.row_mem_opcodeTable (i : Instr) : i.row ∈ opcodeTable := by
  cases i <;> simp [opcodeTable, rowSamples, Instr.row]

/-- The family `EncodesRow`, for every instruction. -/
theorem encodesRow : ∀ i : Instr, Laws.EncodesRow.Statement i
  | .cls => Laws.EncodesRow.cls
  | .ret => Laws.EncodesRow.ret
  | .jp nnn => Laws.EncodesRow.jp nnn
  | .call nnn => Laws.EncodesRow.call nnn
  | .seImm x nn => Laws.EncodesRow.seImm x nn
  | .sneImm x nn => Laws.EncodesRow.sneImm x nn
  | .seReg x y => Laws.EncodesRow.seReg x y
  | .ldImm x nn => Laws.EncodesRow.ldImm x nn
  | .addImm x nn => Laws.EncodesRow.addImm x nn
  | .ldReg x y => Laws.EncodesRow.ldReg x y
  | .orReg x y => Laws.EncodesRow.orReg x y
  | .andReg x y => Laws.EncodesRow.andReg x y
  | .xorReg x y => Laws.EncodesRow.xorReg x y
  | .addReg x y => Laws.EncodesRow.addReg x y
  | .subReg x y => Laws.EncodesRow.subReg x y
  | .shr x y => Laws.EncodesRow.shr x y
  | .subn x y => Laws.EncodesRow.subn x y
  | .shl x y => Laws.EncodesRow.shl x y
  | .sneReg x y => Laws.EncodesRow.sneReg x y
  | .ldI nnn => Laws.EncodesRow.ldI nnn
  | .jpV0 nnn => Laws.EncodesRow.jpV0 nnn
  | .rnd x nn => Laws.EncodesRow.rnd x nn
  | .drw x y n => Laws.EncodesRow.drw x y n
  | .skp x => Laws.EncodesRow.skp x
  | .sknp x => Laws.EncodesRow.sknp x
  | .ldVxDt x => Laws.EncodesRow.ldVxDt x
  | .ldVxK x => Laws.EncodesRow.ldVxK x
  | .ldDtVx x => Laws.EncodesRow.ldDtVx x
  | .ldStVx x => Laws.EncodesRow.ldStVx x
  | .addI x => Laws.EncodesRow.addI x
  | .ldF x => Laws.EncodesRow.ldF x
  | .ldB x => Laws.EncodesRow.ldB x
  | .storeRegs x => Laws.EncodesRow.storeRegs x
  | .loadRegs x => Laws.EncodesRow.loadRegs x

/-- The row of the instruction is the one its word matches. -/
theorem rowOf_of_decode (h : decode p w = .ok i) : Machine.RowOf p w := by
  obtain ⟨hrow, hwf⟩ := decode_eq_ok.mp h
  obtain ⟨hmask, hprofile⟩ := encodesRow i
  refine ⟨i.row, i.row_mem_opcodeTable, ?_, ?_⟩
  · rw [← encode_of_decodeRow hrow, OpcodeRow.hits, hmask, beq_self_eq_true]
  · rw [hprofile]; exact hwf

theorem decode_error_of_not_rowOf (h : ¬Machine.RowOf p w) : ∃ e, decode p w = .error e := by
  cases hd : decode p w with
  | error e => exact ⟨e, rfl⟩
  | ok i => exact absurd (rowOf_of_decode hd) h

/-! ### Disjointness and the illegal words (R309) -/

/-- Two rows that match one word agree on the bits that both masks keep. -/
theorem OpcodeRow.agree_of_hits {r r' : OpcodeRow} (h : r.hits w = true) (h' : r'.hits w = true) :
    r.pattern &&& r'.mask = r'.pattern &&& r.mask := by
  rw [← eq_of_beq h, ← eq_of_beq h', BitVec.and_assoc, BitVec.and_assoc, BitVec.and_comm r.mask]

/-- Any two rows of the map differ in a bit that both masks keep. -/
theorem opcodeTable_eq_of_agree :
    ∀ r ∈ opcodeTable, ∀ r' ∈ opcodeTable, r.pattern &&& r'.mask = r'.pattern &&& r.mask → r = r' := by
  decide +kernel

theorem decodeRow_family0_none (hF : fieldF w = 0x0#4) (hcls : w ≠ 0x00E0#16) (hret : w ≠ 0x00EE#16) :
    decodeRow w = none := by
  simp only [decodeRow, hF, decodeFamily0, hcls, hret, if_false]

theorem decodeRow_family5_9_none (hF : fieldF w = 0x5#4 ∨ fieldF w = 0x9#4) (hN : fieldN w ≠ 0x0#4) :
    decodeRow w = none := by
  obtain hF | hF := hF <;> simp only [decodeRow, hF, hN, if_false]

theorem decodeRow_family8_none (hF : fieldF w = 0x8#4)
    (hN : fieldN w ∈ [0x8#4, 0x9#4, 0xA#4, 0xB#4, 0xC#4, 0xD#4, 0xF#4]) : decodeRow w = none := by
  simp only [decodeRow, hF]
  generalize fieldN w = n at hN ⊢
  fin_cases hN <;> rfl

theorem decodeRow_familyE_none (hF : fieldF w = 0xE#4) (hNN : fieldNN w ∉ [0x9E#8, 0xA1#8]) :
    decodeRow w = none := by
  simp only [List.mem_cons, List.not_mem_nil, or_false, not_or] at hNN
  simp only [decodeRow, hF, decodeFamilyE, hNN, if_false]

theorem decodeRow_familyF_none (hF : fieldF w = 0xF#4)
    (hNN : fieldNN w ∉ [0x07#8, 0x0A#8, 0x15#8, 0x18#8, 0x1E#8, 0x29#8, 0x33#8, 0x55#8, 0x65#8]) :
    decodeRow w = none := by
  simp only [List.mem_cons, List.not_mem_nil, or_false, not_or] at hNN
  simp only [decodeRow, hF, decodeFamilyF, hNN, if_false]

/-- Settles O9: rows that match one word agree on their common mask bits, and in the table only equal rows do. -/
theorem opcodeRowsAreDisjoint : Obligations.OpcodeRowsAreDisjoint := by
  refine ⟨fun w r hr r' hr' h h' => opcodeTable_eq_of_agree r hr r' hr' (OpcodeRow.agree_of_hits h h'),
    fun p w h => decode_noRow ?_, fun w i h hi => decode_minimal_fullOnly (decode_eq_ok.mp h).1 hi⟩
  obtain ⟨hF, hcls, hret⟩ | ⟨hF, hN⟩ | ⟨hF, hN⟩ | ⟨hF, hNN⟩ | ⟨hF, hNN⟩ := h
  · exact decodeRow_family0_none hF hcls hret
  · exact decodeRow_family5_9_none hF hN
  · exact decodeRow_family8_none hF hN
  · exact decodeRow_familyE_none hF hNN
  · exact decodeRow_familyF_none hF hNN

end Sys2Proof
end

section
/-! What a step can do (30_encoding.md R320, R322, R324): the fault of the fetch, of the decoder and of the
instruction's own check, and completion when none of them applies. -/

namespace Sys2Proof.Machine

variable {s t : State} {w : Word} {i : Instr} {f : Fault}

/-! ### The step by fetch and decode -/

/-- R324: the fetch bound comes first. -/
theorem step_fetch_out (h : memSize ≤ s.pc.toNat + 1) :
    step s = .fault (.memoryOutOfBounds (max s.pc.toNat memSize)) := by
  have hfetch : s.beginStep.fetch = _ := State.fetch_out (s := s.beginStep) h
  simp only [step, hfetch, State.beginStep_pc, raise]

/-- R324: the decoder comes second. -/
theorem step_of_decode_error {e : DecodeError} (hw : s.Fetches w) (h : decode s.cfg.profile w = .error e) :
    step s = .fault (.unimplementedOpcode w) := by
  have hfetch : s.beginStep.fetch = .ok w := State.fetch_of_fetches (s := s.beginStep) hw
  simp only [step, hfetch, decodeForStep, h, raise]

/-- R320: the instruction that was decoded runs with the report cleared. -/
theorem step_of_decode (hw : s.Fetches w) (h : decode s.cfg.profile w = .ok i) :
    step s = exec i (s.setRedraw false) := by
  have hfetch : s.beginStep.fetch = .ok w := State.fetch_of_fetches (s := s.beginStep) hw
  simp only [step, hfetch, decodeForStep, h]
  rfl

theorem step_of_not_rowOf (hw : s.Fetches w) (h : ¬RowOf s.cfg.profile w) :
    step s = .fault (.unimplementedOpcode w) :=
  let ⟨_, he⟩ := decode_error_of_not_rowOf h
  step_of_decode_error hw he

/-! ### The two outcomes of each instruction that has a check of its own -/

theorem exec_ret (h : 0 < s.sp.val) : exec .ret s =
    .next (State.setPc { s with sp := ⟨s.sp.val - 1, by omega⟩ } (s.stack[s.sp.val - 1]'(by omega))) := by
  simp only [exec, execRet, s.pop_eq h]

theorem exec_ret_empty (h : s.sp.val = 0) : exec .ret s = .fault .stackUnderflow := by
  simp only [exec, execRet, s.pop_empty h, raise]

theorem exec_call {nnn : Addr12} (h : s.sp.val < 16) : exec (.call nnn) s =
    .next (State.setPc { s with stack := s.stack.set s.sp.val (s.pc + 2#16) h, sp := ⟨s.sp.val + 1, by omega⟩ }
      (zextAddr nnn)) := by
  simp only [exec, execCall, s.push_eq _ h]

theorem exec_call_full {nnn : Addr12} (h : s.sp.val = 16) : exec (.call nnn) s = .fault .stackOverflow := by
  simp only [exec, execCall, s.push_full _ h, raise]

theorem exec_storeRegs {x : Reg} (h : s.base + x.toNat < memSize) :
    exec (.storeRegs x) s = .next (s.setBytes s.base (s.regsThrough x)).advance := by
  have hrange : s.base + (s.regsThrough x).length ≤ memSize := by rw [s.regsThrough_length]; exact h
  simp only [exec, execStoreRegs, s.writeRange_ok (.inr hrange)]

theorem exec_storeRegs_out {x : Reg} (h : memSize ≤ s.base + x.toNat) :
    exec (.storeRegs x) s = .fault (.memoryOutOfBounds (max s.base memSize)) := by
  have hrange : 0 < (s.regsThrough x).length ∧ memSize ≤ s.base + (s.regsThrough x).length - 1 := by
    rw [s.regsThrough_length]; exact ⟨Nat.succ_pos _, h⟩
  simp only [exec, execStoreRegs, s.writeRange_error hrange, raise]

theorem exec_loadRegs {x : Reg} (h : s.base + x.toNat < memSize) :
    exec (.loadRegs x) s = .next (s.loadFrom 0 (s.bytesAt s.base (x.toNat + 1))).advance := by
  have hrange : s.base + (x.toNat + 1) ≤ memSize := h
  simp only [exec, execLoadRegs, s.readRange_ok (.inr hrange)]

theorem exec_loadRegs_out {x : Reg} (h : memSize ≤ s.base + x.toNat) :
    exec (.loadRegs x) s = .fault (.memoryOutOfBounds (max s.base memSize)) := by
  have hrange : 0 < x.toNat + 1 ∧ memSize ≤ s.base + (x.toNat + 1) - 1 := ⟨Nat.succ_pos _, h⟩
  simp only [exec, execLoadRegs, s.readRange_error hrange, raise]

theorem exec_drw {x y : Reg} {n : Nibble} (h : n.toNat = 0 ∨ s.base + n.toNat ≤ memSize) :
    exec (.drw x y n) s = .next (((s.setFb (s.drawingOf x y (s.bytesAt s.base n.toNat)).fb).setV vf
      (flagByte (s.drawingOf x y (s.bytesAt s.base n.toNat)).collision)).setRedraw true).advance := by
  simp only [exec, execDrw, s.readRange_ok h]

theorem exec_drw_out {x y : Reg} {n : Nibble} (h : 1 ≤ n.toNat ∧ memSize ≤ s.base + n.toNat - 1) :
    exec (.drw x y n) s = .fault (.memoryOutOfBounds (max s.base memSize)) := by
  have hrange := s.readRange_error (a := s.base) (n := n.toNat) h
  simp only [exec, execDrw, hrange, raise]

theorem exec_ldB {x : Reg} (h : s.base + 2 < memSize) :
    exec (.ldB x) s = .next (s.setBytes s.base (bcdDigits (s.getV x))).advance := by
  have hrange : s.base + (bcdDigits (s.getV x)).length ≤ memSize := h
  simp only [exec, execLdB, s.writeRange_ok (.inr hrange)]

theorem exec_ldB_out {x : Reg} (h : memSize ≤ s.base + 2) :
    exec (.ldB x) s = .fault (.memoryOutOfBounds (max s.base memSize)) := by
  have hrange := s.writeRange_error (a := s.base) (bs := bcdDigits (s.getV x)) ⟨Nat.succ_pos _, h⟩
  simp only [exec, execLdB, hrange, raise]

/-! ### The instruction's own check -/

/-- The fault an instruction reports, for the six that have a check of their own (60_exceptions.md R701, R702, R704). -/
def State.ownFault (s : State) : Instr → Option Fault
  | .ret => if s.sp.val = 0 then some .stackUnderflow else none
  | .call _ => if s.sp.val = 16 then some .stackOverflow else none
  | .storeRegs x | .loadRegs x =>
    if memSize ≤ s.base + x.toNat then some (.memoryOutOfBounds (max s.base memSize)) else none
  | .drw _ _ n =>
    if 1 ≤ n.toNat ∧ memSize ≤ s.base + n.toNat - 1 then some (.memoryOutOfBounds (max s.base memSize))
    else none
  | .ldB _ => if memSize ≤ s.base + 2 then some (.memoryOutOfBounds (max s.base memSize)) else none
  | _ => none

theorem State.ownFault_setRedraw (s : State) (b : Bool) (i : Instr) :
    (s.setRedraw b).ownFault i = s.ownFault i := rfl

/-- An instruction whose check fails reports that fault. -/
theorem exec_of_ownFault_some (h : s.ownFault i = some f) : exec i s = .fault f := by
  cases i with
  | ret => obtain ⟨hcheck, ⟨⟩⟩ := Option.ite_none_right_eq_some.mp h; exact exec_ret_empty hcheck
  | call nnn => obtain ⟨hcheck, ⟨⟩⟩ := Option.ite_none_right_eq_some.mp h; exact exec_call_full hcheck
  | storeRegs x => obtain ⟨hcheck, ⟨⟩⟩ := Option.ite_none_right_eq_some.mp h; exact exec_storeRegs_out hcheck
  | loadRegs x => obtain ⟨hcheck, ⟨⟩⟩ := Option.ite_none_right_eq_some.mp h; exact exec_loadRegs_out hcheck
  | drw x y n => obtain ⟨hcheck, ⟨⟩⟩ := Option.ite_none_right_eq_some.mp h; exact exec_drw_out hcheck
  | ldB x => obtain ⟨hcheck, ⟨⟩⟩ := Option.ite_none_right_eq_some.mp h; exact exec_ldB_out hcheck
  | _ => cases h

theorem State.ownFault_ret_none : s.ownFault .ret = none ↔ 0 < s.sp.val := by
  simp [State.ownFault, Nat.pos_iff_ne_zero]

theorem State.ownFault_call_none {nnn : Addr12} : s.ownFault (.call nnn) = none ↔ s.sp.val < 16 := by
  simp only [State.ownFault, ite_eq_right_iff, reduceCtorEq, imp_false]
  omega

theorem State.ownFault_storeRegs_none {x : Reg} :
    s.ownFault (.storeRegs x) = none ↔ s.base + x.toNat < memSize := by
  simp [State.ownFault]

theorem State.ownFault_loadRegs_none {x : Reg} :
    s.ownFault (.loadRegs x) = none ↔ s.base + x.toNat < memSize := by
  simp [State.ownFault]

theorem State.ownFault_drw_none {x y : Reg} {n : Nibble} :
    s.ownFault (.drw x y n) = none ↔ n.toNat = 0 ∨ s.base + n.toNat ≤ memSize := by
  simp only [State.ownFault, ite_eq_right_iff, reduceCtorEq, imp_false]
  omega

theorem State.ownFault_ldB_none {x : Reg} : s.ownFault (.ldB x) = none ↔ s.base + 2 < memSize := by
  simp [State.ownFault]

/-- An instruction with no fault of its own completes. -/
theorem exec_of_ownFault_none (h : s.ownFault i = none) : ∃ t, exec i s = .next t := by
  cases i with
  | ret => exact ⟨_, exec_ret (State.ownFault_ret_none.mp h)⟩
  | call nnn => exact ⟨_, exec_call (State.ownFault_call_none.mp h)⟩
  | storeRegs x => exact ⟨_, exec_storeRegs (State.ownFault_storeRegs_none.mp h)⟩
  | loadRegs x => exact ⟨_, exec_loadRegs (State.ownFault_loadRegs_none.mp h)⟩
  | drw x y n => exact ⟨_, exec_drw (State.ownFault_drw_none.mp h)⟩
  | ldB x => exact ⟨_, exec_ldB (State.ownFault_ldB_none.mp h)⟩
  | ldVxK x => cases hk : s.key <;> exact ⟨_, by simp only [exec, execLdVxK, State.readClearKey, hk]; rfl⟩
  | _ => exact ⟨_, rfl⟩

/-- An instruction that completed had no fault of its own. -/
theorem ownFault_of_exec_next (h : exec i s = .next t) : s.ownFault i = none := by
  cases hf : s.ownFault i with
  | none => rfl
  | some f => rw [exec_of_ownFault_some hf] at h; cases h

theorem step_of_ownFault_some (hw : s.Fetches w) (hd : decode s.cfg.profile w = .ok i) (h : s.ownFault i = some f) :
    step s = .fault f := by
  rw [step_of_decode hw hd, exec_of_ownFault_some ((s.ownFault_setRedraw false i).trans h)]

theorem step_of_ownFault_none (hw : s.Fetches w) (hd : decode s.cfg.profile w = .ok i) (h : s.ownFault i = none) :
    ∃ t, step s = .next t := by
  rw [step_of_decode hw hd]
  exact exec_of_ownFault_none ((s.ownFault_setRedraw false i).trans h)

/-- Settles O14: fetch, decode and `ownFault` in turn are the step's fault, and without one it completes. -/
theorem stepFaultsInStepOrder : Obligations.StepFaultsInStepOrder := by
  refine ⟨fun s => step_fetch_out, fun s w => step_of_not_rowOf, fun s w i hw hd =>
    ⟨?ret, ?call, ?transfer, ?drw, ?ldB, fun hret hcall htransfer hdrw hldB => ?completes⟩⟩
  case ret => rintro rfl h; exact step_of_ownFault_some hw hd (if_pos h)
  case call => rintro nnn rfl h; exact step_of_ownFault_some hw hd (if_pos h)
  case transfer => rintro x (rfl | rfl) h <;> exact step_of_ownFault_some hw hd (if_pos h)
  case drw => rintro x y n rfl hn h; exact step_of_ownFault_some hw hd (if_pos ⟨hn, h⟩)
  case ldB => rintro x rfl h; exact step_of_ownFault_some hw hd (if_pos h)
  case completes =>
    refine step_of_ownFault_none hw hd ?_
    unfold State.ownFault
    split
    · exact if_neg fun h => hret ⟨rfl, h⟩
    · exact if_neg fun h => hcall ⟨⟨_, rfl⟩, h⟩
    · exact if_neg fun h => htransfer ⟨_, .inl rfl, h⟩
    · exact if_neg fun h => htransfer ⟨_, .inr rfl, h⟩
    · exact if_neg fun h => hdrw ⟨_, _, _, rfl, h⟩
    · exact if_neg fun h => hldB ⟨⟨_, rfl⟩, h⟩
    · rfl

end Sys2Proof.Machine
end

section
/-! What the step command answers (10_state.md R126, R129): the report of a step that completes (30_encoding.md R327),
and a fault that leaves the state as it was (60_exceptions.md R705). -/

namespace Sys2Proof.Machine

variable {s t : State} {w : Word} {i : Instr} {f : Fault}

/-! ### The step command -/

theorem State.command_step_next (h : step s = .next t) :
    s.command .step = (t, .stepped (okResult t.redraw)) := by
  simp only [State.command, State.stepCommand, h]

theorem State.command_step_fault (h : step s = .fault f) :
    s.command .step = (s, .stepped (faultResult f)) := by
  simp only [State.command, State.stepCommand, h]

/-- Settles O16: it is what the step command answers for a fault. -/
theorem faultingStepChangesNothing : Obligations.FaultingStepChangesNothing :=
  fun _ _ => State.command_step_fault

/-! ### The redraw report -/

/-- CLS and DRW report a redraw; every other instruction leaves the report as it finds it (R327). -/
theorem exec_redraw (h : exec i s = .next t) :
    t.redraw = (decide (Part.redraw ∈ writtenParts i) || s.redraw) := by
  have hown := ownFault_of_exec_next h
  cases i with
  | ret => cases (exec_ret (State.ownFault_ret_none.mp hown)).symm.trans h; rfl
  | call nnn => cases (exec_call (State.ownFault_call_none.mp hown)).symm.trans h; rfl
  | storeRegs x =>
    cases (exec_storeRegs (State.ownFault_storeRegs_none.mp hown)).symm.trans h
    obtain ⟨m, hm⟩ := s.setBytes_eq s.base (s.regsThrough x)
    rw [hm]; rfl
  | loadRegs x =>
    cases (exec_loadRegs (State.ownFault_loadRegs_none.mp hown)).symm.trans h
    obtain ⟨v, hv⟩ := s.loadFrom_eq 0 (s.bytesAt s.base (x.toNat + 1))
    rw [hv]; rfl
  | drw x y n => cases (exec_drw (State.ownFault_drw_none.mp hown)).symm.trans h; rfl
  | ldB x =>
    cases (exec_ldB (State.ownFault_ldB_none.mp hown)).symm.trans h
    obtain ⟨m, hm⟩ := s.setBytes_eq s.base (bcdDigits (s.getV x))
    rw [hm]; rfl
  | ldVxK x => cases hk : s.key <;> simp only [exec, execLdVxK, State.readClearKey, hk] at h <;> cases h <;> rfl
  | _ => cases h; rfl

theorem redraw_mem_writtenParts : Part.redraw ∈ writtenParts i ↔ i = .cls ∨ ∃ x y n, i = .drw x y n := by
  cases i <;> simp [writtenParts]

theorem decodeRow_familyD (h : fieldF w = 0xD#4) :
    decodeRow w = some (.drw (fieldX w) (fieldY w) (fieldN w)) := by
  simp only [decodeRow, h]

/-- The instructions that report a redraw are the word 00E0 and the words of family D. -/
theorem redraw_mem_writtenParts_of_decodeRow (h : decodeRow w = some i) :
    Part.redraw ∈ writtenParts i ↔ w = 0x00E0#16 ∨ fieldF w = 0xD#4 := by
  rw [redraw_mem_writtenParts, ← encode_of_decodeRow h]
  constructor
  · rintro (rfl | ⟨x, y, n, rfl⟩)
    · exact .inl rfl
    · exact .inr (fieldF_formatXYN ..)
  · rw [encode_of_decodeRow h]
    rintro (rfl | hF)
    · exact .inl (Option.some.inj h.symm)
    · exact .inr ⟨_, _, _, Option.some.inj (h.symm.trans (decodeRow_familyD hF))⟩

/-- The report of a completed step, from the word it fetched: `exec` starts from a cleared report. -/
theorem step_redraw (hw : s.Fetches w) (h : step s = .next t) :
    t.redraw = true ↔ w = 0x00E0#16 ∨ fieldF w = 0xD#4 := by
  obtain ⟨w', i, hw', hd, hexec⟩ := step_next h
  obtain rfl := State.fetches_unique hw hw'
  rw [exec_redraw hexec, State.setRedraw_redraw, Bool.or_false, decide_eq_true_iff,
    redraw_mem_writtenParts_of_decodeRow (decode_eq_ok.mp hd).1]

/-- Settles O19: the step command answers the report of the next state, or a result that is not ok. -/
theorem redrawIsReportedByClsAndDrwOnly : Obligations.RedrawIsReportedByClsAndDrwOnly :=
  ⟨fun _ _ _ hw h => ⟨_, congrArg Prod.snd (State.command_step_next h), rfl, step_redraw hw h⟩,
    fun _ _ h => ⟨_, congrArg Prod.snd (State.command_step_fault h), rfl⟩⟩

end Sys2Proof.Machine
end

section
/-! The encoding of every instruction, and what its profile makes of it (30_encoding.md R303, R304, R306). -/

namespace Sys2Proof

/-- The decoder reads back every instruction from its encoding: format by format, the fields are the operands. -/
theorem decodeRow_encode (i : Instr) : decodeRow (encode i) = some i := by
  cases i with
  | cls | ret => rfl
  | jp nnn | call nnn | ldI nnn | jpV0 nnn => simp only [encode, decodeRow, fieldF_formatA, fieldNNN_formatA]
  | seImm x nn | sneImm x nn | ldImm x nn | addImm x nn | rnd x nn =>
    simp only [encode, decodeRow, fieldF_formatXK, fieldX_formatXK, fieldNN_formatXK]
  | seReg x y | sneReg x y | drw x y n =>
    simp only [encode, decodeRow, fieldF_formatXYN, fieldX_formatXYN, fieldY_formatXYN, fieldN_formatXYN, if_true]
  | ldReg x y | orReg x y | andReg x y | xorReg x y | addReg x y | subReg x y | shr x y | subn x y | shl x y =>
    simp only [encode, decodeRow, fieldF_formatXYN, fieldX_formatXYN, fieldY_formatXYN, fieldN_formatXYN]; rfl
  | skp x | sknp x | ldVxDt x | ldVxK x | ldDtVx x | ldStVx x | addI x | ldF x | ldB x | storeRegs x | loadRegs x =>
    simp only [encode, decodeRow, fieldF_formatXK, fieldX_formatXK, fieldNN_formatXK]; rfl

theorem decode_encode_of_wf {p : Profile} {i : Instr} (h : i.wf p = true) : decode p (encode i) = .ok i :=
  decode_eq_ok.mpr ⟨decodeRow_encode i, h⟩

/-- Every instruction is encoded in a row of its own profile. -/
theorem Machine.encodedAs_encode (i : Instr) : Machine.EncodedAs i i.rowProfile (encode i) := by
  refine ⟨decode_encode_of_wf rfl, ?_⟩
  cases hrow : i.rowProfile with
  | minimal => exact decode_encode_of_wf (by rw [Instr.wf, hrow]; rfl)
  | full => exact decode_minimal_fullOnly (decodeRow_encode i) hrow

end Sys2Proof
end

section
/-! Control transfer (40_control_flow.md): the skips, the jumps, CALL and RET. -/

namespace Sys2Proof.Machine

/-! ### Skips (R410 to R413) -/

/-- `skipIf` for a test that decides the proposition `P`. -/
theorem State.skipIf_eq_setPc (s : State) {c : Bool} {P : Prop} [Decidable P] (h : c = true ↔ P) :
    s.skipIf c = s.setPc (s.pc + if P then 4#16 else 2#16) := by
  simp only [State.skipIf, h]

/-- A word of family 5 or 9 with a nonzero low nibble is no instruction. -/
theorem decode_family5_9_noRow {p : Profile} {f x y n : BitVec 4} (hf : f = 0x5#4 ∨ f = 0x9#4) (hn : n ≠ 0x0#4) :
    decode p (f ++ x ++ y ++ n) = .error (.noRow (f ++ x ++ y ++ n)) :=
  decode_noRow (decodeRow_family5_9_none (by rwa [fieldF_formatXYN]) (by rwa [fieldN_formatXYN]))

/-- Settles O21: each skip is `skipIf` of its own test. -/
theorem skipsMovePcByFourOrTwo : Obligations.SkipsMovePcByFourOrTwo := fun s x y nn =>
  ⟨encodedAs_encode (.seImm x nn), encodedAs_encode (.sneImm x nn), encodedAs_encode (.seReg x y),
    encodedAs_encode (.sneReg x y),
    fun _ _ hn => ⟨decode_family5_9_noRow (.inl rfl) hn, decode_family5_9_noRow (.inr rfl) hn⟩,
    congrArg _ (s.skipIf_eq_setPc beq_iff_eq), congrArg _ (s.skipIf_eq_setPc bne_iff_ne),
    congrArg _ (s.skipIf_eq_setPc beq_iff_eq), congrArg _ (s.skipIf_eq_setPc bne_iff_ne)⟩

/-! ### Jumps (R401, R414) -/

@[simp] theorem zextAddr_toNat (nnn : Addr12) : (zextAddr nnn).toNat = nnn.toNat :=
  BitVec.toNat_setWidth_of_le (by decide)

@[simp] theorem zextByte_toNat (b : Byte) : (zextByte b).toNat = b.toNat :=
  BitVec.toNat_setWidth_of_le (by decide)

/-- The target of BNNN is at most 0xFFF + 0xFF, so the 16-bit sum does not wrap. -/
theorem zextAddr_add_zextByte_toNat (nnn : Addr12) (b : Byte) :
    (zextAddr nnn + zextByte b).toNat = nnn.toNat + b.toNat := by
  rw [BitVec.toNat_add_of_lt, zextAddr_toNat, zextByte_toNat]
  rw [zextAddr_toNat, zextByte_toNat]
  omega

/-- Settles O22: the targets as integers. -/
theorem jumpsReplacePc : Obligations.JumpsReplacePc := fun s nnn =>
  ⟨encodedAs_encode (.jp nnn), encodedAs_encode (.jpV0 nnn), ⟨_, rfl, zextAddr_toNat nnn⟩,
    ⟨_, rfl, zextAddr_add_zextByte_toNat nnn (s.jump0Base nnn)⟩⟩

/-! ### CALL and RET (R400, R402) -/

/-- A change of the stack and of pc leaves everything else. -/
theorem frame_stack_setPc (s : State) (sp : Fin 17) (stack : Vector Word 16) (target : Word) :
    Frame s (State.setPc { s with sp := sp, stack := stack } target) (fun _ => False) [.stack] 0 0 where
  regs _ _ := rfl
  i _ := rfl
  stack h := absurd List.mem_cons_self h
  dt _ := rfl
  st _ := rfl
  screen _ _ := rfl
  key _ := rfl
  redraw _ := rfl
  draws _ := rfl
  mem _ _ := rfl
  cfg := rfl

/-- A stack entry read after an entry was written. -/
theorem stack_set_get (stack : Vector Word 16) {n : Nat} (hn : n < 16) (a : Word) (k : Fin 16) :
    (stack.set n a hn).get k = if k.val = n then a else stack.get k := by
  simp only [Vector.get_eq_getElem, Vector.getElem_set, eq_comm]

/-- Settles O23: below 16 entries the call is `exec_call`, at 16 `exec_call_full`. -/
theorem callPushesTheReturnAddress : Obligations.CallPushesTheReturnAddress := fun s nnn =>
  ⟨encodedAs_encode (.call nnn),
    fun h => ⟨_, exec_call h, stack_set_get s.stack h _, rfl, zextAddr_toNat nnn, frame_stack_setPc ..⟩,
    exec_call_full⟩

/-- Settles O24: with an entry the return is `exec_ret`, without one `exec_ret_empty`. -/
theorem returnPopsIntoPc : Obligations.ReturnPopsIntoPc := by
  refine fun s => ⟨encodedAs_encode .ret, fun h => ⟨_, exec_ret h, Nat.sub_add_cancel h, fun k hk => ?_, rfl,
    frame_stack_setPc s _ s.stack _⟩, exec_ret_empty⟩
  have entry : k.val = s.sp.val - 1 := hk
  simp only [State.setPc_pc, Vector.get_eq_getElem, entry]

end Sys2Proof.Machine
end

section
/-! Registers and ALU (41_alu.md): loads, bitwise operations, and the arithmetic that sets VF. -/

namespace Sys2Proof.Machine

/-! ### Writing a register, and a flag before it -/

/-- A change of the registers in `regs` and of pc leaves everything else. -/
theorem frame_v_setPc (s : State) {regs : Reg → Prop} {v : Vector Byte 16} (target : Word)
    (h : ∀ y, ¬regs y → State.getV { s with v := v } y = s.getV y) :
    Frame s (State.setPc { s with v := v } target) regs [] 0 0 where
  regs := h
  i _ := rfl
  stack _ := ⟨rfl, rfl⟩
  dt _ := rfl
  st _ := rfl
  screen _ _ := rfl
  key _ := rfl
  redraw _ := rfl
  draws _ := rfl
  mem _ _ := rfl
  cfg := rfl

theorem frame_setV_advance (s : State) (x : Reg) (b : Byte) : Frame s (s.setV x b).advance (· = x) [] 0 0 :=
  frame_v_setPc s _ fun y hy => (s.setV_getV x y b).trans (if_neg hy)

theorem frame_setFlagThen_advance (s : State) (flag : Bool) (x : Reg) (b : Byte) :
    Frame s (s.setFlagThen flag x b).advance (fun r => r = x ∨ r = vf) [] 0 0 :=
  frame_v_setPc s _ fun y hy => by
    obtain ⟨hx, hvf⟩ := not_or.mp hy
    exact (s.setFlagThen_getV flag x y b).trans ((if_neg hx).trans (if_neg hvf))

theorem State.setV_getV_self (s : State) (x : Reg) (b : Byte) : (s.setV x b).getV x = b :=
  (s.setV_getV x x b).trans (if_pos rfl)

theorem State.setFlagThen_getV_self (s : State) (flag : Bool) (x : Reg) (b : Byte) :
    (s.setFlagThen flag x b).getV x = b :=
  (s.setFlagThen_getV flag x x b).trans (if_pos rfl)

theorem State.setFlagThen_getV_vf (s : State) (flag : Bool) {x : Reg} (b : Byte) (hx : x ≠ vf) :
    (s.setFlagThen flag x b).getV vf = flagByte flag :=
  (s.setFlagThen_getV flag x vf b).trans ((if_neg hx.symm).trans (if_pos rfl))

/-- R470, R471: an instruction that is `setFlagThen` leaves its result in V[X], and its flag in VF unless X = F. -/
theorem exec_setFlagThen {s : State} {i : Instr} {flag : Bool} {x : Reg} {b : Byte} {result bit : Nat}
    (h : exec i s = .next (s.setFlagThen flag x b).advance)
    (hresult : b.toNat = result) (hbit : (flagByte flag).toNat = bit) :
    ∃ t, exec i s = .next t ∧ (t.getV x).toNat = result ∧ (x ≠ vf → (t.getV vf).toNat = bit) ∧
      t.pc = s.pc + 2#16 ∧ Frame s t (fun r => r = x ∨ r = vf) [] 0 0 := by
  refine ⟨_, h, ?_, fun hx => ?_, rfl, frame_setFlagThen_advance ..⟩
  · rw [State.advance_getV, State.setFlagThen_getV_self, hresult]
  · rw [State.advance_getV, State.setFlagThen_getV_vf _ _ _ hx, hbit]

/-! ### The flags and the results as numbers -/

theorem flagByte_toNat (flag : Bool) : (flagByte flag).toNat = flag.toNat := by
  cases flag <;> rfl

theorem flagByte_decide_toNat (P : Prop) [Decidable P] : (flagByte (decide P)).toNat = if P then 1 else 0 := by
  split <;> simp [flagByte, *]

theorem flagByte_carryOut_toNat (a b : Byte) :
    (flagByte (carryOut a b)).toNat = if 256 ≤ a.toNat + b.toNat then 1 else 0 :=
  flagByte_decide_toNat _

theorem flagByte_noBorrow_toNat (a b : Byte) :
    (flagByte (noBorrow a b)).toNat = if b.toNat ≤ a.toNat then 1 else 0 :=
  flagByte_decide_toNat _

theorem flagByte_shiftedOutRight_toNat (b : Byte) : (flagByte (shiftedOutRight b)).toNat = b.toNat % 2 := by
  rw [flagByte_toNat, shiftedOutRight, BitVec.getLsbD, Nat.toNat_testBit, Nat.pow_zero, Nat.div_one]

/-- Bit 7 is the quotient by 128, since a byte is below 256. -/
theorem flagByte_shiftedOutLeft_toNat (b : Byte) : (flagByte (shiftedOutLeft b)).toNat = b.toNat / 128 := by
  rw [flagByte_toNat, shiftedOutLeft, BitVec.getLsbD, Nat.toNat_testBit]
  omega

theorem byte_sub_toNat (a b : Byte) : (a - b).toNat = (a.toNat + 256 - b.toNat) % 256 := by
  rw [BitVec.toNat_sub]
  omega

theorem byte_shiftRight_one_toNat (b : Byte) : (b >>> 1).toNat = b.toNat / 2 := by
  rw [BitVec.toNat_ushiftRight, Nat.shiftRight_eq_div_pow, Nat.pow_one]

theorem byte_shiftLeft_one_toNat (b : Byte) : (b <<< 1).toNat = b.toNat * 2 % 256 := by
  rw [BitVec.toNat_shiftLeft, Nat.shiftLeft_eq, Nat.pow_one]

/-! ### Loads and bitwise operations (R450 to R455) -/

/-- Settles O26: each instruction is one `setV`. -/
theorem immediateLoadAndAdd : Obligations.ImmediateLoadAndAdd := fun s x nn =>
  ⟨encodedAs_encode (.ldImm x nn), encodedAs_encode (.addImm x nn),
    ⟨_, rfl, s.setV_getV_self x nn, rfl, frame_setV_advance ..⟩,
    ⟨_, rfl, (congrArg BitVec.toNat (s.setV_getV_self x _)).trans (BitVec.toNat_add ..), rfl, frame_setV_advance ..⟩⟩

/-- Settles O27: each instruction is one `setV`, whose byte is read bit by bit. -/
theorem copyAndBitwise : Obligations.CopyAndBitwise := by
  refine fun s x y => ⟨encodedAs_encode (.ldReg x y), encodedAs_encode (.orReg x y), encodedAs_encode (.andReg x y),
    encodedAs_encode (.xorReg x y), ⟨_, rfl, s.setV_getV_self x _, rfl, frame_setV_advance ..⟩,
    ⟨_, rfl, fun k => ?or, rfl, frame_setV_advance ..⟩, ⟨_, rfl, fun k => ?and, rfl, frame_setV_advance ..⟩,
    ⟨_, rfl, fun k => ?xor, rfl, frame_setV_advance ..⟩⟩
  case or => rw [State.advance_getV, State.setV_getV_self, BitVec.getLsbD_or]
  case and => rw [State.advance_getV, State.setV_getV_self, BitVec.getLsbD_and]
  case xor => rw [State.advance_getV, State.setV_getV_self, BitVec.getLsbD_xor]

/-! ### Arithmetic and shifts with a flag (R456, R460 to R463) -/

/-- Settles O28: the sum and its carry. -/
theorem addSetsTheCarry : Obligations.AddSetsTheCarry := fun _ x y =>
  ⟨encodedAs_encode (.addReg x y), exec_setFlagThen rfl (BitVec.toNat_add ..) (flagByte_carryOut_toNat ..)⟩

/-- Settles O29: the two differences, each with its own no-borrow. -/
theorem subtractionsSetNoBorrow : Obligations.SubtractionsSetNoBorrow := fun _ x y =>
  ⟨encodedAs_encode (.subReg x y), encodedAs_encode (.subn x y),
    exec_setFlagThen rfl (byte_sub_toNat ..) (flagByte_noBorrow_toNat ..),
    exec_setFlagThen rfl (byte_sub_toNat ..) (flagByte_noBorrow_toNat ..)⟩

/-- Settles O30: the source is `shiftSource`, and the bit shifted out is its lowest or its highest. -/
theorem shiftsByOneCaptureTheBit : Obligations.ShiftsByOneCaptureTheBit := by
  intro s x y src hsrc
  have source : s.shiftSource x y = src := hsrc.symm
  subst source
  exact ⟨encodedAs_encode (.shr x y), encodedAs_encode (.shl x y),
    exec_setFlagThen rfl (byte_shiftRight_one_toNat _) (flagByte_shiftedOutRight_toNat _),
    exec_setFlagThen rfl (byte_shiftLeft_one_toNat _) (flagByte_shiftedOutLeft_toNat _)⟩

end Sys2Proof.Machine
end

section
/-! Address register and memory transfer (42_index_memory.md): the loads of I, and the transfers at I between memory
and the registers. -/

namespace Sys2Proof.Machine

/-! ### The address register (R500, R501, R510) -/

/-- A change of I and of pc leaves everything else. -/
theorem frame_setI_advance (s : State) (a : Word) : Frame s (s.setI a).advance (fun _ => False) [.i] 0 0 where
  regs _ _ := rfl
  i h := absurd List.mem_cons_self h
  stack _ := ⟨rfl, rfl⟩
  dt _ := rfl
  st _ := rfl
  screen _ _ := rfl
  key _ := rfl
  redraw _ := rfl
  draws _ := rfl
  mem _ _ := rfl
  cfg := rfl

/-- R501: the sum of I and a byte wraps at 16 bits. -/
theorem add_zextByte_toNat (a : Word) (b : Byte) : (a + zextByte b).toNat = (a.toNat + b.toNat) % 65536 := by
  rw [BitVec.toNat_add, zextByte_toNat]

/-- Settles O32: each instruction is one `setI`. -/
theorem addressRegisterLoadAndAdd : Obligations.AddressRegisterLoadAndAdd := fun s x nnn =>
  ⟨encodedAs_encode (.ldI nnn), encodedAs_encode (.addI x),
    ⟨_, rfl, zextAddr_toNat nnn, rfl, frame_setI_advance ..⟩,
    ⟨_, rfl, add_zextByte_toNat s.i (s.getV x), rfl, frame_setI_advance ..⟩⟩

/-- R510: only the low nibble of the digit counts. -/
theorem glyphAddr_eq (c : Config) (b : Byte) : glyphAddr c b = c.fontBase.val + 5 * (b.toNat % 16) := by
  rw [glyphAddr, BitVec.toNat_and]
  exact congrArg (c.fontBase.val + 5 * ·) (Nat.and_two_pow_sub_one_eq_mod b.toNat 4)

/-- The address of a glyph is at most 0x1B0 + 75, so it fits in I. -/
theorem glyphAddr_toNat (c : Config) (b : Byte) :
    (BitVec.ofNat 16 (glyphAddr c b)).toNat = c.fontBase.val + 5 * (b.toNat % 16) := by
  have hbase := c.fontBase.isLt
  rw [BitVec.toNat_ofNat, glyphAddr_eq]
  omega

/-- Settles O36: the instruction is one `setI`. -/
theorem glyphAddressOfLowNibble : Obligations.GlyphAddressOfLowNibble := fun s x =>
  ⟨encodedAs_encode (.ldF x), ⟨_, rfl, glyphAddr_toNat s.cfg (s.getV x), rfl, frame_setI_advance ..⟩⟩

/-! ### Stores at I (R502, R511) -/

/-- A change of the `n` bytes from `lo` on and of pc leaves everything else. -/
theorem frame_setMem_setPc (s : State) {m : Memory} (target : Word) {lo n : Nat}
    (h : ∀ a, a < lo ∨ lo + n ≤ a → (s.setMem m).byteAt a = s.byteAt a) :
    Frame s ((s.setMem m).setPc target) (fun _ => False) [] lo n where
  regs _ _ := rfl
  i _ := rfl
  stack _ := ⟨rfl, rfl⟩
  dt _ := rfl
  st _ := rfl
  screen _ _ := rfl
  key _ := rfl
  redraw _ := rfl
  draws _ := rfl
  mem := h
  cfg := rfl

theorem setBytes_advance_pc (s : State) (a : Nat) (bs : List Byte) :
    (s.setBytes a bs).advance.pc = s.pc + 2#16 := by
  obtain ⟨m, hm⟩ := s.setBytes_eq a bs
  rw [hm, State.advance_pc, State.setMem_pc]

theorem frame_setBytes_advance (s : State) (a : Nat) (bs : List Byte) :
    Frame s (s.setBytes a bs).advance (fun _ => False) [] a bs.length := by
  have outside := s.setBytes_byteAt_outside a (bs := bs)
  obtain ⟨m, hm⟩ := s.setBytes_eq a bs
  rw [hm] at outside ⊢
  exact frame_setMem_setPc s _ outside

/-- The byte at offset `k` after a range write is the one the list holds there. -/
theorem State.setBytes_byteAt_add (s : State) {a k : Nat} {bs : List Byte} {b : Byte}
    (h : a + bs.length ≤ memSize) (hb : bs[k]? = some b) : (s.setBytes a bs).byteAt (a + k) = b := by
  rw [s.setBytes_byteAt _ _ _ h, if_pos (Nat.le_add_right ..), Nat.add_sub_cancel_left,
    List.getD_eq_getElem?_getD, hb, Option.getD_some]

/-- Settles O33: in range the store is `exec_storeRegs`, out of range `exec_storeRegs_out`. -/
theorem storeWritesRegistersAtI : Obligations.StoreWritesRegistersAtI := by
  refine fun s x => ⟨encodedAs_encode (.storeRegs x), fun h => ?_, exec_storeRegs_out⟩
  have length := s.regsThrough_length x
  have inRange : s.base + (s.regsThrough x).length ≤ memSize := by rw [length]; exact h
  refine ⟨_, exec_storeRegs h, fun k hk => ?_, setBytes_advance_pc .., length ▸ frame_setBytes_advance ..⟩
  exact s.setBytes_byteAt_add inRange (s.regsThrough_getElem x k hk)

/-- A number not above a byte fits in a byte; the decimal digits of the byte are such numbers. -/
theorem ofNat_toNat_of_le_byte {d : Nat} (b : Byte) (h : d ≤ b.toNat) : (BitVec.ofNat 8 d).toNat = d :=
  Nat.mod_eq_of_lt (h.trans_lt b.isLt)

/-- Settles O37: in range the store is `exec_ldB`, out of range `exec_ldB_out`. -/
theorem bcdStoresThreeDigits : Obligations.BcdStoresThreeDigits := by
  refine fun s x => ⟨encodedAs_encode (.ldB x), fun h => ?_, exec_ldB_out⟩
  have inRange : s.base + (bcdDigits (s.getV x)).length ≤ memSize := h
  have stored {k d : Nat} (hd : (bcdDigits (s.getV x))[k]? = some (BitVec.ofNat 8 d)) (hle : d ≤ (s.getV x).toNat) :
      ((s.setBytes s.base (bcdDigits (s.getV x))).byteAt (s.base + k)).toNat = d := by
    rw [s.setBytes_byteAt_add inRange hd, ofNat_toNat_of_le_byte _ hle]
  exact ⟨_, exec_ldB h, stored (k := 0) rfl (Nat.div_le_self ..),
    stored (k := 1) rfl ((Nat.mod_le ..).trans (Nat.div_le_self ..)), stored (k := 2) rfl (Nat.mod_le ..),
    setBytes_advance_pc .., frame_setBytes_advance ..⟩

/-! ### Loads at I (R503) -/

theorem loadFrom_advance_pc (s : State) (k : Nat) (bs : List Byte) :
    (s.loadFrom k bs).advance.pc = s.pc + 2#16 := by
  obtain ⟨v, hv⟩ := s.loadFrom_eq k bs
  rw [hv, State.advance_pc]

/-- Loading `n` bytes of memory: the first `n` registers hold them, every other keeps its byte. -/
theorem State.loadFrom_bytesAt_getV (s : State) (a : Nat) {n : Nat} (hn : n ≤ 16) (y : Reg) :
    (s.loadFrom 0 (s.bytesAt a n)).getV y = if y.toNat < n then s.byteAt (a + y.toNat) else s.getV y := by
  rw [s.loadFrom_getV _ _ (by rwa [s.bytesAt_length, Nat.zero_add]), if_pos (Nat.zero_le _), Nat.sub_zero,
    List.getD_eq_getElem?_getD]
  split
  case isTrue hy => rw [s.bytesAt_getElem a n _ hy, Option.getD_some]
  case isFalse hy =>
    rw [List.getElem?_eq_none (by rw [s.bytesAt_length]; exact Nat.le_of_not_lt hy), Option.getD_none]

theorem frame_loadFrom_bytesAt_advance (s : State) (a : Nat) {n : Nat} (hn : n ≤ 16) :
    Frame s (s.loadFrom 0 (s.bytesAt a n)).advance (·.toNat < n) [] 0 0 := by
  have kept (y : Reg) (hy : ¬y.toNat < n) := (s.loadFrom_bytesAt_getV a hn y).trans (if_neg hy)
  obtain ⟨v, hv⟩ := s.loadFrom_eq 0 (s.bytesAt a n)
  rw [hv] at kept ⊢
  exact frame_v_setPc s _ kept

/-- Settles O34: in range the load is `exec_loadRegs`, out of range `exec_loadRegs_out`. -/
theorem loadReadsRegistersAtI : Obligations.LoadReadsRegistersAtI := by
  refine fun s x => ⟨encodedAs_encode (.loadRegs x), fun h => ?_, exec_loadRegs_out⟩
  have count : x.toNat + 1 ≤ 16 := x.isLt
  refine ⟨_, exec_loadRegs h, fun k hk => ?_, loadFrom_advance_pc .., ?_⟩
  · exact (s.loadFrom_bytesAt_getV _ count k).trans (if_pos (Nat.lt_succ_of_le hk))
  · simpa only [Nat.lt_succ_iff] using frame_loadFrom_bytesAt_advance s s.base count

end Sys2Proof.Machine
end

section
/-! Display (43_display.md): the cleared screen, and the pixels a sprite's set bits land on. -/

namespace Sys2Proof.Machine

/-- A change of the registers in `regs`, of the screen, of the report and of pc leaves everything else. -/
theorem frame_v_screen_redraw_setPc (s : State) {regs : Reg → Prop} {v : Vector Byte 16} (fb : Framebuffer)
    (redraw : Bool) (target : Word) (h : ∀ y, ¬regs y → State.getV { s with v := v } y = s.getV y) :
    Frame s (State.setPc { s with v := v, fb := fb, redraw := redraw } target) regs [.screen, .redraw] 0 0 where
  regs := h
  i _ := rfl
  stack _ := ⟨rfl, rfl⟩
  dt _ := rfl
  st _ := rfl
  screen hkept := absurd List.mem_cons_self hkept
  key _ := rfl
  redraw hkept := absurd (List.mem_cons_of_mem _ List.mem_cons_self) hkept
  draws _ := rfl
  mem _ _ := rfl
  cfg := rfl

/-! ### CLS (R550) -/

theorem State.framebuffer_of_fb_blank {t : State} (h : t.fb = Framebuffer.blank) :
    t.framebuffer = List.replicate 2048 0x00#8 := by
  rw [State.framebuffer, h, Framebuffer.blank, List.map_replicate, if_neg Bool.false_ne_true]

/-- Settles O41: the blank screen, pixel by pixel and as the host's view of it. -/
theorem clsClearsTheScreen : Obligations.ClsClearsTheScreen := fun s =>
  ⟨encodedAs_encode .cls, _, rfl, Framebuffer.blank_get, State.framebuffer_of_fb_blank rfl, rfl, rfl,
    frame_v_screen_redraw_setPc s _ _ _ fun _ _ => rfl⟩

/-! ### DRW (R551 to R555) -/

/-- The pixels the drawing inverts are those the spec's predicate names. -/
theorem State.mem_rowsPixels_iff_covers {s : State} {x y : Reg} {n : Nibble} {idx : Nat} :
    idx ∈ rowsPixels s.cfg.spriteXwrap (s.spriteX x) (s.spriteY y) (s.bytesAt s.base n.toNat) ↔
      s.Covers x y n idx := by
  rw [mem_rowsPixels]
  constructor
  · rintro ⟨r, row, hrow, hidx⟩
    have hr : r < n.toNat := s.bytesAt_length s.base n.toNat ▸ (List.getElem?_eq_some_iff.mp hrow).1
    obtain rfl : s.byteAt (s.base + r) = row := Option.some.inj ((s.bytesAt_getElem _ _ _ hr).symm.trans hrow)
    obtain ⟨c, hc, hbit, hx, hy, rfl⟩ := mem_rowPixels.mp hidx
    exact ⟨r, c, _, hr, hc, hbit, rfl, hx, hy, rfl⟩
  · rintro ⟨r, c, px, hr, hc, hbit, rfl, hx, hy, rfl⟩
    exact ⟨r, _, s.bytesAt_getElem _ _ _ hr, mem_rowPixels.mpr ⟨c, hc, hbit, hx, hy, rfl⟩⟩

section
variable (s : State) (x y : Reg) (n : Nibble)

/-- A covered pixel is inverted. -/
theorem State.drawingOf_get_of_covers {idx : Nat} (h : s.Covers x y n idx) :
    (s.drawingOf x y (s.bytesAt s.base n.toNat)).fb.get idx = !s.fb.get idx :=
  ((drawSprite_spec ..).1 idx).trans (if_pos (State.mem_rowsPixels_iff_covers.mpr h))

/-- A pixel that is not covered stays. -/
theorem State.drawingOf_get_of_not_covers {idx : Nat} (h : ¬s.Covers x y n idx) :
    (s.drawingOf x y (s.bytesAt s.base n.toNat)).fb.get idx = s.fb.get idx :=
  ((drawSprite_spec ..).1 idx).trans (if_neg fun hmem => h (State.mem_rowsPixels_iff_covers.mp hmem))

/-- R554: the collision is that some covered pixel was on. -/
theorem State.drawingOf_collision :
    (s.drawingOf x y (s.bytesAt s.base n.toNat)).collision = true ↔
      ∃ idx, s.Covers x y n idx ∧ s.fb.get idx = true := by
  rw [State.drawingOf, (drawSprite_spec ..).2, List.any_eq_true]
  exact exists_congr fun idx => and_congr_left' State.mem_rowsPixels_iff_covers

theorem State.drawingOf_collision_false (h : ∀ idx, s.Covers x y n idx → s.fb.get idx = false) :
    (s.drawingOf x y (s.bytesAt s.base n.toNat)).collision = false := by
  rw [← Bool.not_eq_true, s.drawingOf_collision]
  rintro ⟨idx, hcovers, hon⟩
  exact Bool.false_ne_true ((h idx hcovers).symm.trans hon)

end

/-- Settles O42: in range the draw is `exec_drw`, whose drawing inverts the covered pixels, out of range
`exec_drw_out`. -/
theorem drwInvertsTheCoveredPixels : Obligations.DrwInvertsTheCoveredPixels := by
  refine fun s x y n => ⟨encodedAs_encode (.drw x y n), fun h => ?_, fun hn h => exec_drw_out ⟨hn, h⟩⟩
  have inRange : n.toNat = 0 ∨ s.base + n.toNat ≤ memSize := h.imp_right Nat.le_of_pred_lt
  refine ⟨_, exec_drw inRange, fun _ => s.drawingOf_get_of_covers x y n, fun _ => s.drawingOf_get_of_not_covers x y n,
    fun hon => ?_, fun hoff => ?_, rfl, rfl,
    frame_v_screen_redraw_setPc s _ _ _ fun r hr => (s.setV_getV vf r _).trans (if_neg hr)⟩
  · exact (State.setV_getV_self ..).trans (congrArg flagByte ((s.drawingOf_collision x y n).mpr hon))
  · exact (State.setV_getV_self ..).trans (congrArg flagByte (s.drawingOf_collision_false x y n hoff))

end Sys2Proof.Machine
end

section
/-! Timers and input (44_timers_input.md): the transfers to and from the timers, and the instructions that take the
key from the latch. -/

namespace Sys2Proof.Machine

/-! ### What a change of timers, latch and registers leaves -/

/-- A change of the registers in `regs`, of the timers and the latch as far as `parts` names them, and of pc leaves
everything else. -/
theorem frame_v_timers_key_setPc (s : State) {regs : Reg → Prop} {parts : List Part} {v : Vector Byte 16}
    {dt st : Byte} {key : Option Nibble} (target : Word)
    (hregs : ∀ y, ¬regs y → State.getV { s with v := v } y = s.getV y) (hdt : .dt ∉ parts → dt = s.dt)
    (hst : .st ∉ parts → st = s.st) (hkey : .key ∉ parts → key = s.key) :
    Frame s (State.setPc { s with v := v, dt := dt, st := st, key := key } target) regs parts 0 0 where
  regs := hregs
  i _ := rfl
  stack _ := ⟨rfl, rfl⟩
  dt := hdt
  st := hst
  screen _ _ := rfl
  key := hkey
  redraw _ := rfl
  draws _ := rfl
  mem _ _ := rfl
  cfg := rfl

theorem frame_setDt_advance (s : State) (b : Byte) : Frame s (s.setDt b).advance (fun _ => False) [.dt] 0 0 :=
  frame_v_timers_key_setPc s _ (fun _ _ => rfl) (absurd List.mem_cons_self) (fun _ => rfl) (fun _ => rfl)

theorem frame_setSt_advance (s : State) (b : Byte) : Frame s (s.setSt b).advance (fun _ => False) [.st] 0 0 :=
  frame_v_timers_key_setPc s _ (fun _ _ => rfl) (fun _ => rfl) (absurd List.mem_cons_self) (fun _ => rfl)

theorem frame_setKey_setV_advance (s : State) (k : Option Nibble) (x : Reg) (b : Byte) :
    Frame s ((s.setKey k).setV x b).advance (· = x) [.key] 0 0 :=
  frame_v_timers_key_setPc s _ (fun y hy => (s.setV_getV x y b).trans (if_neg hy)) (fun _ => rfl) (fun _ => rfl)
    (absurd List.mem_cons_self)

theorem frame_setKey_skipIf (s : State) (k : Option Nibble) (c : Bool) :
    Frame s ((s.setKey k).skipIf c) (fun _ => False) [.key] 0 0 :=
  frame_v_timers_key_setPc s _ (fun _ _ => rfl) (fun _ => rfl) (fun _ => rfl) (absurd List.mem_cons_self)

/-! ### Timer transfers (R600 to R602) -/

theorem State.soundActive_iff (s : State) : s.soundActive = true ↔ s.st ≠ 0x00#8 := bne_iff_ne

/-- Settles O44: each instruction is one `setV`, `setDt` or `setSt`. -/
theorem timerTransfers : Obligations.TimerTransfers := fun s x =>
  ⟨encodedAs_encode (.ldVxDt x), encodedAs_encode (.ldDtVx x), encodedAs_encode (.ldStVx x),
    ⟨_, rfl, s.setV_getV_self x s.dt, rfl, frame_setV_advance ..⟩,
    ⟨_, rfl, rfl, rfl, frame_setDt_advance ..⟩,
    ⟨_, rfl, rfl, State.soundActive_iff _, rfl, frame_setSt_advance ..⟩⟩

/-! ### The wait for a key (R603) -/

@[simp] theorem zextKey_toNat (k : Nibble) : (zextKey k).toNat = k.toNat :=
  BitVec.toNat_setWidth_of_le (by decide)

/-- FX0A with an empty latch: emptying it again changes nothing. -/
theorem exec_ldVxK_none {s : State} {x : Reg} (h : s.key = none) : exec (.ldVxK x) s = .next s := by
  have emptied : s.setKey none = s := by rw [State.setKey, ← h]
  simp only [exec, execLdVxK, State.readClearKey, h, emptied]

/-- FX0A with a key in the latch. -/
theorem exec_ldVxK_some {s : State} {x : Reg} {k : Nibble} (h : s.key = some k) :
    exec (.ldVxK x) s = .next ((s.setKey none).setV x (zextKey k)).advance := by
  simp only [exec, execLdVxK, State.readClearKey, h]

/-- Settles O45: without a key the wait is `exec_ldVxK_none`, with one `exec_ldVxK_some`. -/
theorem waitForKeyTakesTheLatch : Obligations.WaitForKeyTakesTheLatch := by
  refine fun s x => ⟨encodedAs_encode (.ldVxK x), exec_ldVxK_none, fun k hk =>
    ⟨_, exec_ldVxK_some hk, ?_, rfl, rfl, frame_setKey_setV_advance ..⟩⟩
  rw [State.advance_getV, State.setV_getV_self, zextKey_toNat]

/-! ### The key skips (R604, R605) -/

/-- The byte matches when the latch holds a key and its code is the whole byte, as a number. -/
theorem keyMatches_iff (k : Option Nibble) (b : Byte) :
    keyMatches k b = true ↔ k.map BitVec.toNat = some b.toNat := by
  cases k with
  | none => simp only [keyMatches, Option.map_none, Bool.false_eq_true, reduceCtorEq]
  | some code =>
    rw [keyMatches, beq_iff_eq, ← BitVec.toNat_inj, zextKey_toNat, Option.map_some, Option.some_inj]

theorem not_keyMatches_iff (k : Option Nibble) (b : Byte) :
    (!keyMatches k b) = true ↔ ¬k.map BitVec.toNat = some b.toNat := by
  rw [Bool.not_eq_true', ← Bool.not_eq_true, keyMatches_iff]

/-- Settles O46: each skip empties the latch and is `skipIf` of its own test of the key that was in it. -/
theorem keySkipsConsumeTheLatch : Obligations.KeySkipsConsumeTheLatch := by
  refine fun s x => ⟨encodedAs_encode (.skp x), encodedAs_encode (.sknp x),
    ⟨_, rfl, ?skp, rfl, frame_setKey_skipIf ..⟩, ⟨_, rfl, ?sknp, rfl, frame_setKey_skipIf ..⟩⟩
  case skp => exact congrArg State.pc (State.skipIf_eq_setPc _ (keyMatches_iff ..))
  case sknp =>
    rw [State.skipIf_eq_setPc _ (not_keyMatches_iff ..), ite_not]
    rfl

end Sys2Proof.Machine
end

section
/-! Faults and timers (60_exceptions.md): the ground of a fault, which no command of R708 touches, and the tick as the
only decrement of a timer (R720). -/

namespace Sys2Proof.Machine

variable {s t : State} {w : Word} {i : Instr} {f : Fault}

/-! ### The illegal word (R703) -/

/-- Settles O13: `decode` refuses every word that matches no row of the profile. -/
theorem illegalWordRaisesUnimplementedOpcode : Obligations.IllegalWordRaisesUnimplementedOpcode :=
  fun _ _ => step_of_not_rowOf

/-! ### What a fault depends on (R708) -/

/-- The three grounds of a step's fault, in the order of R324: the fetch bound, the decoder, the instruction's own
check. -/
theorem step_fault (h : step s = .fault f) :
    (memSize ≤ s.pc.toNat + 1 ∧ f = .memoryOutOfBounds (max s.pc.toNat memSize)) ∨
    (∃ w e, s.Fetches w ∧ decode s.cfg.profile w = .error e ∧ f = .unimplementedOpcode w) ∨
    (∃ w i, s.Fetches w ∧ decode s.cfg.profile w = .ok i ∧ s.ownFault i = some f) := by
  obtain hout | hlt := le_or_gt memSize (s.pc.toNat + 1)
  · cases (step_fetch_out hout).symm.trans h
    exact .inl ⟨hout, rfl⟩
  have hw := State.fetches_of_lt hlt
  cases hd : decode s.cfg.profile (wordOfBytes (s.byteAt s.pc.toNat) (s.byteAt (s.pc.toNat + 1))) with
  | error e =>
    cases (step_of_decode_error hw hd).symm.trans h
    exact .inr (.inl ⟨_, e, hw, hd, rfl⟩)
  | ok i =>
    cases hown : s.ownFault i with
    | none =>
      obtain ⟨_, hnext⟩ := step_of_ownFault_none hw hd hown
      cases hnext.symm.trans h
    | some g =>
      cases (step_of_ownFault_some hw hd hown).symm.trans h
      exact .inr (.inr ⟨_, i, hw, hd, hown⟩)

theorem State.Fetches.congr (hcfg : t.cfg = s.cfg) (hpc : t.pc = s.pc) (hmem : t.mem = s.mem) (hw : s.Fetches w) :
    t.Fetches w := by
  simpa only [State.Fetches, State.byteAt, hcfg, hpc, hmem] using hw

theorem State.ownFault_congr (hsp : t.sp = s.sp) (hi : t.i = s.i) (i : Instr) : t.ownFault i = s.ownFault i := by
  unfold State.ownFault State.base
  rw [hsp, hi]

/-- Every ground of a fault is read from the parameters, pc, SP, I and memory: the timers, the latch and the rest
decide none. -/
theorem step_fault_congr (hcfg : t.cfg = s.cfg) (hpc : t.pc = s.pc) (hsp : t.sp = s.sp) (hi : t.i = s.i)
    (hmem : t.mem = s.mem) (h : step s = .fault f) : step t = .fault f := by
  obtain ⟨hout, rfl⟩ | ⟨w, e, hw, hd, rfl⟩ | ⟨w, i, hw, hd, hown⟩ := step_fault h
  · rw [← hpc] at hout ⊢
    exact step_fetch_out hout
  · exact step_of_decode_error (hw.congr hcfg hpc hmem) (hcfg ▸ hd)
  · exact step_of_ownFault_some (hw.congr hcfg hpc hmem) (hcfg ▸ hd) ((State.ownFault_congr hsp hi i).trans hown)

/-- A command that does not start over leaves a faulting state where it faults in the same way. -/
theorem step_fault_command {c : Command} (h : step s = .fault f) (hc : c.startsOver = false) :
    step (s.command c).1 = .fault f := by
  cases c with
  | step => rw [State.command_step_fault h]; exact h
  | tick | setKey code | clearKey => exact step_fault_congr (s := s) rfl rfl rfl rfl rfl h
  | framebuffer => exact h
  | loadProgram bytes | reset => cases hc

/-- Settles O17, by induction on the schedule: each command keeps the fault. -/
theorem faultIsRaisedAgain : Obligations.FaultIsRaisedAgain := by
  intro s f cs h hcs
  induction cs generalizing s with
  | nil => exact h
  | cons c cs ih =>
    obtain ⟨hc, hrest⟩ := List.forall_mem_cons.mp hcs
    exact ih _ (step_fault_command h hc) hrest

/-! ### The timers (R720) -/

/-- The decrement saturates at 0, as subtraction of natural numbers does. -/
theorem decTimer_toNat (b : Byte) : (decTimer b).toNat = b.toNat - 1 := by
  unfold decTimer
  split
  case isTrue h => rw [h]; rfl
  case isFalse h => bv_omega

@[simp] theorem State.command_tick (s : State) :
    s.command .tick = ((s.setDt (decTimer s.dt)).setSt (decTimer s.st), .ok) := rfl

theorem Frame.timers {regs : Reg → Prop} {lo n : Nat} (frame : Frame s t regs [] lo n) :
    t.dt = s.dt ∧ t.st = s.st :=
  ⟨frame.dt List.not_mem_nil, frame.st List.not_mem_nil⟩

/-- Of the instructions, FX15 alone writes DT and FX18 alone writes ST (R601, R602). -/
theorem exec_timers (h : exec i s = .next t) :
    (t.dt = s.dt ∨ ∃ x, i = .ldDtVx x ∧ t.dt = s.getV x) ∧
    (t.st = s.st ∨ ∃ x, i = .ldStVx x ∧ t.st = s.getV x) := by
  have hown := ownFault_of_exec_next h
  cases i with
  | ldDtVx x => cases h; exact ⟨.inr ⟨x, rfl, rfl⟩, .inl rfl⟩
  | ldStVx x => cases h; exact ⟨.inl rfl, .inr ⟨x, rfl, rfl⟩⟩
  | ret => cases (exec_ret (State.ownFault_ret_none.mp hown)).symm.trans h; exact ⟨.inl rfl, .inl rfl⟩
  | call nnn => cases (exec_call (State.ownFault_call_none.mp hown)).symm.trans h; exact ⟨.inl rfl, .inl rfl⟩
  | storeRegs x =>
    cases (exec_storeRegs (State.ownFault_storeRegs_none.mp hown)).symm.trans h
    exact (frame_setBytes_advance ..).timers.imp .inl .inl
  | ldB x =>
    cases (exec_ldB (State.ownFault_ldB_none.mp hown)).symm.trans h
    exact (frame_setBytes_advance ..).timers.imp .inl .inl
  | loadRegs x =>
    cases (exec_loadRegs (State.ownFault_loadRegs_none.mp hown)).symm.trans h
    exact (frame_loadFrom_bytesAt_advance s s.base x.isLt).timers.imp .inl .inl
  | drw x y n => cases (exec_drw (State.ownFault_drw_none.mp hown)).symm.trans h; exact ⟨.inl rfl, .inl rfl⟩
  | ldVxK x =>
    cases hk : s.key with
    | none => cases (exec_ldVxK_none hk).symm.trans h; exact ⟨.inl rfl, .inl rfl⟩
    | some k => cases (exec_ldVxK_some hk).symm.trans h; exact ⟨.inl rfl, .inl rfl⟩
  | _ => cases h; exact ⟨.inl rfl, .inl rfl⟩

/-- Settles O48: the tick is `decTimer` of both timers, and an instruction writes one as `exec_timers` says. -/
theorem tickAloneDecrementsTheTimers : Obligations.TickAloneDecrementsTheTimers :=
  ⟨fun s => ⟨_, _, s.command_tick, decTimer_toNat _, decTimer_toNat _⟩, fun _ _ _ => exec_timers⟩

end Sys2Proof.Machine
end

section
/-! `load_program` (70_reset_and_hazards.md R802, R803): the bound on the image, the reset and the copy. -/

namespace Sys2Proof.Machine

variable {s : State} {bytes : List Byte}

/-! ### The elements at reset (10_state.md R114) -/

theorem State.powerOn_elementsAtReset (c : Config) : (State.powerOn c).ElementsAtReset where
  v x := Vector.getElem_replicate x.isLt
  i := rfl
  pc := rfl
  sp := rfl
  stack k := Vector.getElem_replicate k.isLt
  dt := rfl
  st := rfl
  fb idx _ := Framebuffer.blank_get idx
  key := rfl

/-- Memory and the count of random bytes are none of the elements that `ElementsAtReset` speaks of. -/
theorem State.ElementsAtReset.setMem_setDraws (h : s.ElementsAtReset) (m : Memory) (n : Nat) :
    ((s.setDraws n).setMem m).ElementsAtReset := by
  obtain ⟨v, i, pc, sp, stack, dt, st, fb, key⟩ := h
  exact ⟨v, i, pc, sp, stack, dt, st, fb, key⟩

/-! ### The two outcomes -/

@[simp] theorem State.command_reset (s : State) : s.command .reset = (s.resetCommand, .ok) := rfl

/-- R803: an image above MAX_PROGRAM is refused. -/
theorem State.command_loadProgram_tooLong (h : maxProgram < bytes.length) :
    s.command (.loadProgram bytes) = (s, .loadError) := by
  simp only [State.command, State.loadProgram, if_pos h]

/-- R802: an image that fits is copied to PROGRAM_BASE of the machine reset. -/
theorem State.command_loadProgram_fits (h : bytes.length ≤ maxProgram) :
    s.command (.loadProgram bytes) = (s.resetCommand.setBytes programBase bytes, .ok) := by
  simp only [State.command, State.loadProgram, if_neg (Nat.not_lt.mpr h)]

/-- The copy writes memory alone: the elements stay at reset and the parameters are those before the command. -/
theorem State.resetCommand_setBytes_elementsAtReset (s : State) (a : Nat) (bytes : List Byte) :
    (s.resetCommand.setBytes a bytes).ElementsAtReset ∧ (s.resetCommand.setBytes a bytes).cfg = s.cfg := by
  obtain ⟨m, hm⟩ := s.resetCommand.setBytes_eq a bytes
  rw [hm]
  exact ⟨(State.powerOn_elementsAtReset s.cfg).setMem_setDraws m s.draws, rfl⟩

/-- Settles O54: MAX_PROGRAM is what memory holds from PROGRAM_BASE on, so the copy of an image that fits stays in
memory, and outside its range it leaves what the reset left. -/
theorem loadProgramResetsAndCopies : Obligations.LoadProgramResetsAndCopies := by
  refine fun s bytes => ⟨State.command_loadProgram_tooLong, fun hfits => ?_⟩
  have inMemory : programBase + bytes.length ≤ memSize := Nat.add_le_of_le_sub' (by decide) hfits
  obtain ⟨elements, cfg⟩ := s.resetCommand_setBytes_elementsAtReset programBase bytes
  refine ⟨_, State.command_loadProgram_fits hfits, elements, cfg, fun j hj => ?copied, fun a ha => ?outside⟩
  case copied =>
    apply State.setBytes_byteAt_add _ inMemory
    rw [List.getD_eq_getElem _ _ hj, List.getElem?_eq_getElem hj]
  case outside => exact State.setBytes_byteAt_outside _ _ _ _ ha

end Sys2Proof.Machine
end

section
/-! Decode against encode in both directions, and the rows of the opcode map as the decoder reads them (30_encoding.md
R303 to R307). -/

namespace Sys2Proof

variable {p : Profile} {w : Word} {i : Instr}

/-! ### The encoding of an instruction is read back -/

/-- A word of an instruction that the profile does not have is refused as FULL's (R306). -/
theorem decode_fullOnly (hrow : decodeRow w = some i) (hwf : i.wf p = false) : decode p w = .error (.fullOnly w) := by
  simp only [decode, hrow, hwf, Bool.false_eq_true, if_false]

/-- The two bytes of a word are decoded as that word, with nothing left over. -/
theorem decodeBytes_bytesOfWord (h : decode p w = .ok i) : decodeBytes p (bytesOfWord w) = .ok (i, []) := by
  simp only [bytesOfWord, decodeBytes, wordOfBytes_extract, h]

theorem decodeBytes_encodeBytes (i : Instr) : decodeBytes .full (encodeBytes i) = .ok (i, []) :=
  decodeBytes_bytesOfWord (decode_encode_of_wf rfl)

/-- Settles O7: the row of an encoding is its instruction's, whatever the profile; the profile then decides. -/
theorem decodeOfEncode : Obligations.DecodeOfEncode := fun _ i =>
  ⟨decode_encode_of_wf, decode_fullOnly (decodeRow_encode i), decodeBytes_encodeBytes i⟩

/-- Settles O8: the fields of a word that decodes are the whole word. -/
theorem encodeOfDecode : Obligations.EncodeOfDecode := fun _ _ _ h =>
  let ⟨hrow, hwf⟩ := decode_eq_ok.mp h
  ⟨encode_of_decodeRow hrow, hwf⟩

/-- Settles O11, by evaluating the decoder on each word. -/
theorem sampleWordsDecode : Obligations.SampleWordsDecode := by
  unfold Obligations.SampleWordsDecode
  decide

/-! ### What matches a row is decoded -/

/-- A field that the mask keeps whole is the pattern's. -/
theorem field_of_masked {mask pattern : Word} {start len : Nat} (h : w &&& mask = pattern)
    (hmask : mask.extractLsb' start len = BitVec.allOnes len) :
    w.extractLsb' start len = pattern.extractLsb' start len := by
  rw [← h, BitVec.extractLsb'_and, hmask, BitVec.and_allOnes]

/-- A word that matches the row of an instruction decodes to an instruction of the same row: the bits that the row's
mask keeps are those the decoder classifies the word by. -/
theorem decodeRow_of_hits {i : Instr} (h : i.row.hits w = true) :
    ∃ j, decodeRow w = some j ∧ j.rowProfile = i.row.profile := by
  have masked : w &&& i.row.mask = i.row.pattern := eq_of_beq h
  cases i with
  | cls | ret =>
    obtain rfl := (BitVec.and_allOnes (x := w)).symm.trans masked
    exact ⟨_, rfl, rfl⟩
  | jp nnn | call nnn | seImm x nn | sneImm x nn | ldImm x nn | addImm x nn | ldI nnn | jpV0 nnn | rnd x nn
  | drw x y n =>
    dsimp only [Instr.row] at masked
    have hF : fieldF w = _ := field_of_masked masked rfl
    simp only [decodeRow, hF]
    exact ⟨_, rfl, rfl⟩
  | seReg x y | sneReg x y | ldReg x y | orReg x y | andReg x y | xorReg x y | addReg x y | subReg x y | shr x y
  | subn x y | shl x y =>
    dsimp only [Instr.row] at masked
    have hF : fieldF w = _ := field_of_masked masked rfl
    have hN : fieldN w = _ := field_of_masked masked rfl
    simp only [decodeRow, hF, hN]
    exact ⟨_, rfl, rfl⟩
  | skp x | sknp x | ldVxDt x | ldVxK x | ldDtVx x | ldStVx x | addI x | ldF x | ldB x | storeRegs x | loadRegs x =>
    dsimp only [Instr.row] at masked
    have hF : fieldF w = _ := field_of_masked masked rfl
    have hNN : fieldNN w = _ := field_of_masked masked rfl
    simp only [decodeRow, hF, hNN]
    exact ⟨_, rfl, rfl⟩

theorem decode_of_rowOf (h : Machine.RowOf p w) : ∃ i, decode p w = .ok i := by
  obtain ⟨r, hr, hits, admits⟩ := h
  obtain ⟨i, -, rfl⟩ := List.mem_map.mp hr
  obtain ⟨j, hrow, hprofile⟩ := decodeRow_of_hits hits
  exact ⟨j, decode_eq_ok.mpr ⟨hrow, (congrArg p.admits hprofile).trans admits⟩⟩

/-- Settles O10: every row of the table is the row of an instruction. -/
theorem decodesExactlyTheRowsOfTheProfile : Obligations.DecodesExactlyTheRowsOfTheProfile := fun _ _ =>
  ⟨fun ⟨_, h⟩ => rowOf_of_decode h, decode_of_rowOf⟩

end Sys2Proof
end

section
/-! What each instruction leaves unchanged when it completes, and who writes VF (10_state.md R101, 30_encoding.md
section 5). -/

namespace Sys2Proof.Machine

variable {s t : State} {i : Instr}

/-! ### Frames -/

/-- A change that touches no byte of memory keeps the bytes outside any range. -/
theorem Frame.of_memory_kept {regs : Reg → Prop} {parts : List Part} (frame : Frame s t regs parts 0 0) (lo n : Nat) :
    Frame s t regs parts lo n :=
  { frame with mem := fun a _ => frame.mem a (.inr (Nat.zero_le a)) }

/-- A change of pc alone leaves everything else. -/
theorem frame_setPc (s : State) (target : Word) : Frame s (s.setPc target) (fun _ => False) [] 0 0 :=
  frame_v_setPc s target fun _ _ => rfl

theorem frame_rndWith_setDraws (s : State) (r : Byte) (x : Reg) (nn : Byte) (n : Nat) :
    Frame s (rndWith r x nn (s.setDraws n)) (· = x) [.draws] 0 0 where
  regs y hy := (s.setV_getV x y _).trans (if_neg hy)
  i _ := rfl
  stack _ := ⟨rfl, rfl⟩
  dt _ := rfl
  st _ := rfl
  screen _ _ := rfl
  key _ := rfl
  redraw _ := rfl
  draws h := absurd List.mem_cons_self h
  mem _ _ := rfl
  cfg := rfl

/-- The wait for a key, with the latch empty or not. -/
theorem exec_ldVxK_frame {x : Reg} (h : exec (.ldVxK x) s = .next t) : Frame s t (· = x) [.key] 0 0 := by
  cases hk : s.key with
  | none =>
    cases (exec_ldVxK_none hk).symm.trans h
    exact frame_v_timers_key_setPc s s.pc (fun _ _ => rfl) (fun _ => rfl) (fun _ => rfl) (fun _ => rfl)
  | some k =>
    cases (exec_ldVxK_some hk).symm.trans h
    exact frame_setKey_setV_advance ..

/-- The frame of every instruction, by the operation its completion is. -/
theorem exec_frame (h : exec i s = .next t) : Frame s t (writtenRegs i) (writtenParts i) s.base (storedBytes i) := by
  have hown := ownFault_of_exec_next h
  cases i with
  | storeRegs x =>
    cases (exec_storeRegs (State.ownFault_storeRegs_none.mp hown)).symm.trans h
    have frame := frame_setBytes_advance s s.base (s.regsThrough x)
    rwa [s.regsThrough_length] at frame
  | ldB x =>
    cases (exec_ldB (State.ownFault_ldB_none.mp hown)).symm.trans h
    exact frame_setBytes_advance ..
  | ret =>
    cases (exec_ret (State.ownFault_ret_none.mp hown)).symm.trans h
    exact (frame_stack_setPc s _ s.stack _).of_memory_kept ..
  | call nnn =>
    cases (exec_call (State.ownFault_call_none.mp hown)).symm.trans h
    exact (frame_stack_setPc s ..).of_memory_kept ..
  | loadRegs x =>
    cases (exec_loadRegs (State.ownFault_loadRegs_none.mp hown)).symm.trans h
    have frame := frame_loadFrom_bytesAt_advance s s.base x.isLt
    simp only [Nat.lt_succ_iff] at frame
    exact frame.of_memory_kept ..
  | drw x y n =>
    cases (exec_drw (State.ownFault_drw_none.mp hown)).symm.trans h
    exact (frame_v_screen_redraw_setPc s _ _ _ fun r hr => (s.setV_getV vf r _).trans (if_neg hr)).of_memory_kept ..
  | cls => cases h; exact (frame_v_screen_redraw_setPc s _ _ _ fun _ _ => rfl).of_memory_kept ..
  | ldVxK x => exact (exec_ldVxK_frame h).of_memory_kept ..
  | rnd x nn => cases h; exact (frame_rndWith_setDraws ..).of_memory_kept ..
  | skp x | sknp x => cases h; exact (frame_setKey_skipIf ..).of_memory_kept ..
  | ldDtVx x => cases h; exact (frame_setDt_advance ..).of_memory_kept ..
  | ldStVx x => cases h; exact (frame_setSt_advance ..).of_memory_kept ..
  | ldI nnn | addI x | ldF x => cases h; exact (frame_setI_advance ..).of_memory_kept ..
  | jp nnn | jpV0 nnn | seImm x nn | sneImm x nn | seReg x y | sneReg x y =>
    cases h; exact (frame_setPc ..).of_memory_kept ..
  | ldImm x nn | addImm x nn | ldReg x y | orReg x y | andReg x y | xorReg x y | ldVxDt x =>
    cases h; exact (frame_setV_advance ..).of_memory_kept ..
  | addReg x y | subReg x y | shr x y | subn x y | shl x y =>
    cases h; exact (frame_setFlagThen_advance ..).of_memory_kept ..

/-- Settles O49: the frame is `exec_frame`. -/
theorem everyInstructionKeepsItsFrame : Obligations.EveryInstructionKeepsItsFrame := fun _ _ _ => exec_frame

/-- An instruction that changes a register is one that may write it. -/
theorem writtenRegs_of_getV_ne {y : Reg} (h : exec i s = .next t) (hne : t.getV y ≠ s.getV y) : writtenRegs i y :=
  not_imp_comm.mp ((exec_frame h).regs y) hne

/-- No register has an index above that of VF. -/
theorem eq_vf_of_le {x : Reg} (h : vf.toNat ≤ x.toNat) : x = vf := by
  bv_omega

/-- Settles O50: VF is among the registers that the instruction may write. -/
theorem onlyFlagInstructionsWriteVfUnnamed : Obligations.OnlyFlagInstructionsWriteVfUnnamed := by
  intro i s t h hne
  have hvf := writtenRegs_of_getV_ne h hne
  cases i with
  | addReg x y | subReg x y | shr x y | subn x y | shl x y => exact .inl ⟨x, y, by simp⟩
  | drw x y n => exact .inr (.inl ⟨x, y, n, rfl⟩)
  | ldImm x nn | addImm x nn | rnd x nn => cases hvf; exact .inr (.inr (.inl ⟨nn, by simp⟩))
  | ldReg x y | orReg x y | andReg x y | xorReg x y => cases hvf; exact .inr (.inr (.inr (.inl ⟨y, by simp⟩)))
  | ldVxDt x => cases hvf; simp
  | ldVxK x => cases hvf; simp
  | loadRegs x => cases eq_vf_of_le hvf; simp
  | _ => exact hvf.elim

end Sys2Proof.Machine
end

section
/-! The step as the host and a schedule see it: it completes or raises one of the four faults (60_exceptions.md R700),
what its result carries (10_state.md R129), and the steps that stand still or end a wait (70_reset_and_hazards.md). -/

namespace Sys2Proof.Machine

variable {s t : State} {w : Word} {i : Instr} {f : Fault}

/-! ### The outcomes of a step -/

/-- Settles O12: it is the step by fetch and decode. -/
theorem stepRunsTheDecodedInstruction : Obligations.StepRunsTheDecodedInstruction := fun _ _ _ => step_of_decode

/-- The report is cleared before the fetch, so a step starts from the same state whatever it was. -/
theorem State.beginStep_setRedraw (s : State) (b : Bool) : (s.setRedraw b).beginStep = s.beginStep := rfl

/-- Settles O20: fetch and execution start from `beginStep`, and the profile is no part of the report. -/
theorem stepIgnoresTheLastReport : Obligations.StepIgnoresTheLastReport := fun s b => by
  simp only [step, s.beginStep_setRedraw b, State.setRedraw_cfg]

theorem exec_next_or_fault (i : Instr) (s : State) : (∃ t, exec i s = .next t) ∨ ∃ f, exec i s = .fault f := by
  cases hown : s.ownFault i with
  | none => exact .inl (exec_of_ownFault_none hown)
  | some f => exact .inr ⟨f, exec_of_ownFault_some hown⟩

/-- A step completes or raises a fault: at the fetch, at the decoder or in the instruction. -/
theorem step_next_or_fault (s : State) : (∃ t, step s = .next t) ∨ ∃ f, step s = .fault f := by
  obtain hout | hlt := le_or_gt memSize (s.pc.toNat + 1)
  · exact .inr ⟨_, step_fetch_out hout⟩
  have hw := State.fetches_of_lt hlt
  cases hd : decode s.cfg.profile (wordOfBytes (s.byteAt s.pc.toNat) (s.byteAt (s.pc.toNat + 1))) with
  | error e => exact .inr ⟨_, step_of_decode_error hw hd⟩
  | ok i => rw [step_of_decode hw hd]; exact exec_next_or_fault i _

/-- Settles O15: a refusal is neither of the two outcomes. -/
theorem noStepIsRefused : Obligations.NoStepIsRefused := by
  intro s r h
  obtain ⟨t, hnext⟩ | ⟨f, hfault⟩ := step_next_or_fault s
  · cases hnext.symm.trans h
  · cases hfault.symm.trans h

/-- The step command leaves the state as it was or, when the step completes, the next state. -/
theorem State.command_step_state (s : State) : (s.command .step).1 = s ∨ step s = .next (s.command .step).1 := by
  obtain ⟨t, h⟩ | ⟨f, h⟩ := step_next_or_fault s
  · rw [State.command_step_next h]; exact .inr h
  · rw [State.command_step_fault h]; exact .inl rfl

/-! ### The payload of a fault -/

/-- An instruction's own fault is one of the stack's or the first address out of bounds, from I on. -/
theorem State.ownFault_cases (h : s.ownFault i = some f) :
    f = .stackUnderflow ∨ f = .stackOverflow ∨ f = .memoryOutOfBounds (max s.base memSize) := by
  unfold State.ownFault at h
  split at h
  case h_1 => obtain ⟨-, ⟨⟩⟩ := Option.ite_none_right_eq_some.mp h; exact .inl rfl
  case h_2 => obtain ⟨-, ⟨⟩⟩ := Option.ite_none_right_eq_some.mp h; exact .inr (.inl rfl)
  case h_3 | h_4 | h_5 | h_6 => obtain ⟨-, ⟨⟩⟩ := Option.ite_none_right_eq_some.mp h; exact .inr (.inr rfl)
  case h_7 => cases h

theorem step_fault_unimplementedOpcode (h : step s = .fault (.unimplementedOpcode w)) : s.Fetches w := by
  obtain ⟨-, ⟨⟩⟩ | ⟨w, e, hw, -, ⟨⟩⟩ | ⟨w, i, -, -, hown⟩ := step_fault h
  · exact hw
  · obtain ⟨⟨⟩⟩ | ⟨⟨⟩⟩ | ⟨⟨⟩⟩ := State.ownFault_cases hown

/-- R212: the address is MEM_SIZE or the address of a 16-bit register above it. -/
theorem step_fault_memoryOutOfBounds {a : Nat} (h : step s = .fault (.memoryOutOfBounds a)) :
    ∃ r : Word, a = max r.toNat memSize := by
  obtain ⟨-, ⟨⟩⟩ | ⟨w, e, -, -, ⟨⟩⟩ | ⟨w, i, -, -, hown⟩ := step_fault h
  · exact ⟨s.pc, rfl⟩
  · obtain ⟨⟨⟩⟩ | ⟨⟨⟩⟩ | ⟨⟨⟩⟩ := State.ownFault_cases hown
    exact ⟨s.i, rfl⟩

/-- The 16 bits of `fault_addr` hold such an address. -/
theorem faultAddr_max_toNat (r : Word) :
    (faultAddr (.memoryOutOfBounds (max r.toNat memSize))).toNat = max r.toNat memSize :=
  Nat.mod_eq_of_lt (max_lt r.isLt (by decide))

/-- Settles O18: the result is `okResult` or `faultResult`, and the payload comes from the ground of the fault. -/
theorem stepResultCarriesCodeAndPayload : Obligations.StepResultCarriesCodeAndPayload := by
  refine ⟨fun s t h => ⟨_, congrArg Prod.snd (State.command_step_next h), rfl, rfl, rfl⟩,
    fun s f h => ⟨_, congrArg Prod.snd (State.command_step_fault h), rfl, ?_, ?_, ?_, ?_⟩⟩
  · rintro rfl; rfl
  · rintro rfl; rfl
  · rintro w rfl
    exact ⟨rfl, rfl, step_fault_unimplementedOpcode h⟩
  · rintro a rfl
    obtain ⟨r, rfl⟩ := step_fault_memoryOutOfBounds h
    exact ⟨rfl, faultAddr_max_toNat r, le_max_right ..⟩

/-! ### Standing still, and the end of a wait -/

/-- The encoding of an instruction of MINIMAL is decoded under either profile. -/
theorem decode_encode_of_minimal {p : Profile} (h : i.rowProfile = .minimal) : decode p (encode i) = .ok i :=
  decode_encode_of_wf (by rw [Instr.wf, h]; cases p <;> rfl)

/-- A jump to its own address changes nothing. -/
theorem exec_jp_self {nnn : Addr12} (h : nnn.toNat = s.pc.toNat) : exec (.jp nnn) s = .next s := by
  have target : zextAddr nnn = s.pc := BitVec.eq_of_toNat_eq ((zextAddr_toNat nnn).trans h)
  simp only [exec, execJp, target]
  rfl

/-- Settles O53: the jump's target is the pc it was fetched at, and the wait finds no key. -/
theorem selfJumpAndEmptyWaitStandStill : Obligations.SelfJumpAndEmptyWaitStandStill := by
  refine ⟨fun s nnn hw hself => ?jump, fun s x hfull hw hkey => ?wait⟩
  case jump =>
    rw [State.StandsStill, step_of_decode hw (decode_encode_of_minimal (i := .jp nnn) rfl)]
    exact exec_jp_self hself
  case wait =>
    rw [State.StandsStill, step_of_decode hw (hfull ▸ (encodedAs_encode (.ldVxK x)).1)]
    exact exec_ldVxK_none hkey

/-- Settles O47: the code in the latch is what the wait takes. -/
theorem setKeyEndsTheWait : Obligations.SetKeyEndsTheWait := by
  intro s x code hfull hw
  have hdecode : decode (s.setKey (some code)).cfg.profile _ = .ok _ := hfull ▸ (encodedAs_encode (.ldVxK x)).1
  have hw : (s.setKey (some code)).Fetches (0xF#4 ++ x ++ 0x0A#8) := hw
  rw [State.command_setKey, step_of_decode hw hdecode, exec_ldVxK_some rfl]
  refine ⟨_, rfl, ?_, rfl, rfl⟩
  rw [State.advance_getV, State.setV_getV_self, zextKey_toNat]

end Sys2Proof.Machine
end

section
/-! The host's probe (log 2, log 3): the word it places at pc, and the profile it gives the CORE. -/

namespace Sys2Proof.Machine

variable {s : State} {w : Word} {i : Instr}

/-- A word that FULL decodes is decoded under the profile that the probe gives the CORE. -/
theorem decode_profileFor {p : Profile} (h : decode .full w = .ok i) : decode (profileFor p w) w = .ok i := by
  obtain ⟨hrow, -⟩ := decode_eq_ok.mp h
  cases hwf : i.wf p with
  | true =>
    have hp : decode p w = .ok i := decode_eq_ok.mpr ⟨hrow, hwf⟩
    simp only [profileFor, hp]
  | false =>
    simp only [profileFor, decode_fullOnly hrow hwf, h]

theorem State.placeWord_pc (s : State) (w : Word) : (s.placeWord w).pc = s.pc := by
  obtain ⟨m, hm⟩ := s.setBytes_eq s.pc.toNat (bytesOfWord w)
  rw [State.placeWord, hm, State.setProfile_pc, State.setMem_pc]

theorem State.placeWord_profile (s : State) (w : Word) :
    (s.placeWord w).cfg.profile = profileFor s.cfg.profile w := rfl

/-- The word placed is the one fetched next. -/
theorem State.placeWord_fetches (h : s.pc.toNat + 1 < memSize) (w : Word) : (s.placeWord w).Fetches w := by
  have inRange : s.pc.toNat + (bytesOfWord w).length ≤ memSize := h
  rw [State.Fetches, State.placeWord_pc, State.placeWord, State.setProfile_byteAt, State.setProfile_byteAt]
  exact ⟨h, (s.setBytes_byteAt_add (k := 0) inRange rfl).symm, (s.setBytes_byteAt_add (k := 1) inRange rfl).symm⟩

/-- The table numbers a word as its value. -/
theorem ofNat_toNat_mod (w : Word) : BitVec.ofNat 16 (w.toNat % 2 ^ 16) = w := by
  rw [Nat.mod_eq_of_lt w.isLt, BitVec.ofNat_toNat, BitVec.setWidth_eq]

/-- Settles O56: the word is placed at pc, under a profile that decodes it. -/
theorem placedWordIsRunNext : Obligations.PlacedWordIsRunNext := by
  intro s w i hlt hdecode
  constructor
  · simp only [decodeTableWord, ofNat_toNat_mod, decodeBytes_bytesOfWord hdecode]
  · rw [State.withFetchWord, ofNat_toNat_mod]
    exact step_of_decode (State.placeWord_fetches hlt w) (decode_profileFor hdecode)

end Sys2Proof.Machine
end

section
/-! The values at reset (10_state.md R114), and the invariant that every step and every command of the host keeps:
memory canonical, pc in its range (30_encoding.md R323), the stack entries return addresses. -/

namespace Sys2Proof.Machine

variable {s t : State} {i : Instr}

/-! ### Reset and power-on -/

/-- R205: outside the font the reset contents are 0x00. -/
theorem resetByte_outside_font {c : Config} {a : Nat} (h : a < c.fontBase.val ∨ c.fontBase.val + 80 ≤ a) :
    c.resetByte a = 0x00#8 :=
  dif_neg (by omega)

theorem State.powerOn_memoryAtReset (c : Config) : (State.powerOn c).MemoryAtReset :=
  ⟨fun k => resetByte_fontBase_add c k.isLt, fun _ _ => resetByte_outside_font⟩

/-- Settles O1: the reset command leaves the power-on state of the same CORE but for the count of draws. -/
theorem resetLeavesTheStatedValues : Obligations.ResetLeavesTheStatedValues :=
  ⟨fun c => ⟨State.powerOn_elementsAtReset c, State.powerOn_memoryAtReset c, rfl⟩,
    fun s => ⟨(State.powerOn_elementsAtReset s.cfg).setMem_setDraws [] s.draws, State.powerOn_memoryAtReset s.cfg, rfl⟩,
    rfl⟩

theorem State.powerOn_inv (c : Config) : (State.powerOn c).Inv :=
  ⟨Memory.wf_nil, show (0x0200#16).toNat ≤ pcMax by decide, fun k => by
    rw [(State.powerOn_elementsAtReset c).stack k]
    decide⟩

/-- Settles O3: memory lists nothing, pc is 0x200 and every stack entry 0. -/
theorem powerOnMeetsInvariant : Obligations.PowerOnMeetsInvariant := State.powerOn_inv

/-! ### What a step does to memory, to the stack and to pc -/

/-- Memory after an instruction is canonical: a store writes through `setBytes`, and nothing else writes memory. -/
theorem exec_mem_wf (h : exec i s = .next t) (hwf : s.mem.wf s.cfg) : t.mem.wf t.cfg := by
  have hown := ownFault_of_exec_next h
  cases i with
  | storeRegs x =>
    cases (exec_storeRegs (State.ownFault_storeRegs_none.mp hown)).symm.trans h
    exact s.setBytes_wf _ _ hwf
  | ldB x =>
    cases (exec_ldB (State.ownFault_ldB_none.mp hown)).symm.trans h
    exact s.setBytes_wf _ _ hwf
  | loadRegs x =>
    cases (exec_loadRegs (State.ownFault_loadRegs_none.mp hown)).symm.trans h
    obtain ⟨v, hv⟩ := s.loadFrom_eq 0 (s.bytesAt s.base (x.toNat + 1))
    rw [hv]
    exact hwf
  | ret => cases (exec_ret (State.ownFault_ret_none.mp hown)).symm.trans h; exact hwf
  | call nnn => cases (exec_call (State.ownFault_call_none.mp hown)).symm.trans h; exact hwf
  | drw x y n => cases (exec_drw (State.ownFault_drw_none.mp hown)).symm.trans h; exact hwf
  | ldVxK x =>
    cases hk : s.key with
    | none => cases (exec_ldVxK_none hk).symm.trans h; exact hwf
    | some k => cases (exec_ldVxK_some hk).symm.trans h; exact hwf
  | _ => cases h; exact hwf

/-- A stack entry after an instruction is the one that stood there, or the return address that a CALL has pushed. -/
theorem exec_stack (h : exec i s = .next t) (k : Fin 16) :
    t.stack.get k = s.stack.get k ∨ t.stack.get k = s.pc + 2#16 := by
  have hown := ownFault_of_exec_next h
  cases i with
  | call nnn =>
    have hsp := State.ownFault_call_none.mp hown
    cases (exec_call hsp).symm.trans h
    have entry := stack_set_get s.stack hsp (s.pc + 2#16) k
    split at entry
    · exact .inr entry
    · exact .inl entry
  | ret =>
    cases (exec_ret (State.ownFault_ret_none.mp hown)).symm.trans h
    exact .inl rfl
  | _ => exact .inl (congrArg (·.get k) ((exec_frame h).stack (by simp [writtenParts])).2)

/-- R323: the largest target is that of BNNN, 0xFFF + 0xFF. -/
theorem zextAddr_add_zextByte_toNat_le (nnn : Addr12) (b : Byte) : (zextAddr nnn + zextByte b).toNat ≤ pcMax := by
  rw [zextAddr_add_zextByte_toNat, pcMax]
  omega

theorem zextAddr_toNat_le (nnn : Addr12) : (zextAddr nnn).toNat ≤ pcMax := by
  rw [zextAddr_toNat, pcMax]
  omega

/-- Where pc is after an instruction (R321, R323): at most 4 further on, at a jump's target, or at a return
address. -/
theorem exec_pc (h : exec i s = .next t) :
    (∃ d : Word, d.toNat ≤ 4 ∧ t.pc = s.pc + d) ∨ t.pc.toNat ≤ pcMax ∨ ∃ k, t.pc = s.stack.get k := by
  have hown := ownFault_of_exec_next h
  have sequential (hpc : t.pc = s.pc + 2#16) : ∃ d : Word, d.toNat ≤ 4 ∧ t.pc = s.pc + d := ⟨_, by decide, hpc⟩
  cases i with
  | jp nnn => cases h; exact .inr (.inl (zextAddr_toNat_le nnn))
  | jpV0 nnn => cases h; exact .inr (.inl (zextAddr_add_zextByte_toNat_le ..))
  | call nnn =>
    cases (exec_call (State.ownFault_call_none.mp hown)).symm.trans h
    exact .inr (.inl (zextAddr_toNat_le nnn))
  | ret =>
    cases (exec_ret (State.ownFault_ret_none.mp hown)).symm.trans h
    exact .inr (.inr ⟨⟨s.sp.val - 1, by omega⟩, rfl⟩)
  | seImm x nn | sneImm x nn | seReg x y | sneReg x y | skp x | sknp x =>
    cases h
    exact .inl ⟨_, by split <;> decide, State.skipIf_pc ..⟩
  | storeRegs x =>
    cases (exec_storeRegs (State.ownFault_storeRegs_none.mp hown)).symm.trans h
    exact .inl (sequential (setBytes_advance_pc ..))
  | ldB x =>
    cases (exec_ldB (State.ownFault_ldB_none.mp hown)).symm.trans h
    exact .inl (sequential (setBytes_advance_pc ..))
  | loadRegs x =>
    cases (exec_loadRegs (State.ownFault_loadRegs_none.mp hown)).symm.trans h
    exact .inl (sequential (loadFrom_advance_pc ..))
  | drw x y n =>
    cases (exec_drw (State.ownFault_drw_none.mp hown)).symm.trans h
    exact .inl (sequential rfl)
  | ldVxK x =>
    cases hk : s.key with
    | none => cases (exec_ldVxK_none hk).symm.trans h; exact .inl ⟨0#16, by decide, (BitVec.add_zero s.pc).symm⟩
    | some k => cases (exec_ldVxK_some hk).symm.trans h; exact .inl (sequential rfl)
  | _ => cases h; exact .inl (sequential rfl)

/-! ### The invariant -/

/-- From a pc that can be fetched at, an address `n` further on does not wrap. -/
theorem fetched_pc_add_toNat_le {pc d : Word} {n : Nat} (hpc : pc.toNat + 1 < memSize) (hd : d.toNat ≤ n) :
    (pc + d).toNat ≤ 0xFFE + n := by
  have hpc : pc.toNat + 1 < 4096 := hpc
  rw [BitVec.toNat_add]
  exact (Nat.mod_le ..).trans (by omega)

/-- A step keeps each part of the invariant. -/
theorem State.Inv.step (hinv : s.Inv) (h : step s = .next t) : t.Inv := by
  obtain ⟨hwf, -, hstack⟩ := hinv
  obtain ⟨w, i, ⟨hlt, -⟩, -, hexec⟩ := step_next h
  refine ⟨exec_mem_wf hexec hwf, ?pc, fun k => ?stack⟩
  case pc =>
    obtain ⟨d, hd, hpc⟩ | hpc | ⟨k, hpc⟩ := exec_pc hexec
    · exact hpc ▸ (fetched_pc_add_toNat_le hlt hd).trans (by decide)
    · exact hpc
    · exact hpc ▸ (hstack k).trans (by decide)
  case stack =>
    obtain hk | hk := exec_stack hexec k
    · exact hk ▸ hstack k
    · exact hk ▸ fetched_pc_add_toNat_le hlt (n := 2) (by decide)

/-- Settles O4: a completed step is an instruction run from a pc that was fetched at. -/
theorem stepKeepsInvariant : Obligations.StepKeepsInvariant := fun _ _ => State.Inv.step

theorem State.Inv.setBytes (hinv : s.Inv) (a : Nat) (bs : List Byte) : (s.setBytes a bs).Inv := by
  obtain ⟨hwf, hpc, hstack⟩ := hinv
  have hwf := s.setBytes_wf a bs hwf
  obtain ⟨m, hm⟩ := s.setBytes_eq a bs
  rw [hm] at hwf ⊢
  exact ⟨hwf, hpc, hstack⟩

/-- The load command leaves the state as it was, or the image copied into the machine reset. -/
theorem State.command_loadProgram_state (s : State) (bytes : List Byte) :
    (s.command (.loadProgram bytes)).1 = s ∨
      (s.command (.loadProgram bytes)).1 = s.resetCommand.setBytes programBase bytes := by
  obtain hlong | hfits := Nat.lt_or_ge maxProgram bytes.length
  · rw [State.command_loadProgram_tooLong hlong]; exact .inl rfl
  · rw [State.command_loadProgram_fits hfits]; exact .inr rfl

/-- Every command keeps the invariant: a load starts from the power-on state, and the rest write no part of it. -/
theorem State.Inv.command (hinv : s.Inv) (c : Command) : (s.command c).1.Inv := by
  cases c with
  | step =>
    obtain hsame | hnext := s.command_step_state
    · exact hsame.symm ▸ hinv
    · exact hinv.step hnext
  | loadProgram bytes =>
    obtain hsame | hloaded := s.command_loadProgram_state bytes
    · exact hsame.symm ▸ hinv
    · exact hloaded ▸ State.Inv.setBytes (s := s.resetCommand) (State.powerOn_inv s.cfg) ..
  | reset => exact State.powerOn_inv s.cfg
  | tick | setKey code | clearKey | framebuffer => exact hinv

/-- Settles O5, by induction on the schedule. -/
theorem commandScheduleKeepsInvariant : Obligations.CommandScheduleKeepsInvariant := by
  intro s cs hinv
  induction cs generalizing s with
  | nil => exact hinv
  | cons c cs ih => exact ih _ (hinv.command c)

/-! ### The parameters (00_scope.md R5) -/

theorem step_cfg (h : step s = .next t) : t.cfg = s.cfg :=
  let ⟨_, _, _, _, hexec⟩ := step_next h
  (exec_frame hexec).cfg

/-- Settles O6: no command writes the parameters, and a reset takes them over. -/
theorem commandsKeepParameters : Obligations.CommandsKeepParameters := by
  intro s c
  cases c with
  | step =>
    obtain hsame | hnext := s.command_step_state
    · rw [hsame]
    · exact step_cfg hnext
  | loadProgram bytes =>
    obtain hsame | hloaded := s.command_loadProgram_state bytes
    · rw [hsame]
    · rw [hloaded]; exact (s.resetCommand_setBytes_elementsAtReset programBase bytes).2
  | reset | tick | setKey code | clearKey | framebuffer => rfl

end Sys2Proof.Machine
end

section
/-! What an instruction of MINIMAL does not read: PROFILE, the timers, the latch and the random input (00_scope.md R2,
10_state.md R107, R110, 30_encoding.md R325). -/

namespace Sys2Proof.Machine

/-- The state with other values of PROFILE and of the parts that no instruction of MINIMAL reads or writes. -/
def State.withUnread (s : State) (p : Profile) (d e : Byte) (k : Option Nibble) (n : Nat) : State :=
  ((((s.setProfile p).setDt d).setSt e).setKey k).setDraws n

section
variable (s : State) (p : Profile) (d e : Byte) (k : Option Nibble) (n : Nat)

theorem State.withUnread_self : s.withUnread s.cfg.profile s.dt s.st s.key s.draws = s := rfl

theorem State.withUnread_profile :
    s.withUnread s.cfg.profile d e k n = (((s.setDt d).setSt e).setKey k).setDraws n := rfl

theorem State.withUnread_others : s.withUnread p s.dt s.st s.key s.draws = s.setProfile p := rfl

theorem State.withUnread_byteAt (a : Nat) : (s.withUnread p d e k n).byteAt a = s.byteAt a :=
  s.setProfile_byteAt p a

theorem State.withUnread_bytesAt (a m : Nat) : (s.withUnread p d e k n).bytesAt a m = s.bytesAt a m := by
  simp only [State.bytesAt, State.withUnread_byteAt]

theorem State.withUnread_setByte (a : Nat) (b : Byte) :
    (s.withUnread p d e k n).setByte a b = (s.setByte a b).withUnread p d e k n := by
  unfold State.setByte
  split <;> rfl

theorem State.withUnread_setBytes (a : Nat) (bs : List Byte) :
    (s.withUnread p d e k n).setBytes a bs = (s.setBytes a bs).withUnread p d e k n := by
  induction bs generalizing s a with
  | nil => rfl
  | cons b bs ih => rw [State.setBytes, State.withUnread_setByte, ih, State.setBytes]

theorem State.withUnread_loadFrom (j : Nat) (bs : List Byte) :
    (s.withUnread p d e k n).loadFrom j bs = (s.loadFrom j bs).withUnread p d e k n := by
  induction bs generalizing s j with
  | nil => rfl
  | cons b bs ih => exact ih (s.setV (BitVec.ofNat 4 j) b) (j + 1)

end

section
variable {s t : State} {i : Instr} (p : Profile) (d e : Byte) (k : Option Nibble) (n : Nat)

/-- An instruction of MINIMAL has the same effect whatever the parts are that it does not read, and carries them
over. -/
theorem exec_withUnread (hi : i.rowProfile = .minimal) (h : exec i s = .next t) :
    exec i (s.withUnread p d e k n) = .next (t.withUnread p d e k n) := by
  have hown := ownFault_of_exec_next h
  cases i with
  | ret =>
    have hsp := State.ownFault_ret_none.mp hown
    cases (exec_ret hsp).symm.trans h
    exact exec_ret (s := s.withUnread p d e k n) hsp
  | call nnn =>
    have hsp := State.ownFault_call_none.mp hown
    cases (exec_call hsp).symm.trans h
    exact exec_call (s := s.withUnread p d e k n) hsp
  | storeRegs x =>
    have hrange := State.ownFault_storeRegs_none.mp hown
    cases (exec_storeRegs hrange).symm.trans h
    refine (exec_storeRegs (s := s.withUnread p d e k n) hrange).trans ?_
    rw [State.withUnread_setBytes]
    rfl
  | loadRegs x =>
    have hrange := State.ownFault_loadRegs_none.mp hown
    cases (exec_loadRegs hrange).symm.trans h
    refine (exec_loadRegs (s := s.withUnread p d e k n) hrange).trans ?_
    rw [State.withUnread_bytesAt, State.withUnread_loadFrom]
    rfl
  | drw x y m =>
    have hrange := State.ownFault_drw_none.mp hown
    cases (exec_drw hrange).symm.trans h
    refine (exec_drw (s := s.withUnread p d e k n) hrange).trans ?_
    rw [State.withUnread_bytesAt]
    rfl
  | cls | jp nnn | ldImm x nn | addImm x nn | ldReg x y | orReg x y | andReg x y | xorReg x y | addReg x y | ldI nnn
  | addI x => cases h; rfl
  | _ => cases hi

theorem rowProfile_of_decode_minimal {w : Word} (h : decode .minimal w = .ok i) : i.rowProfile = .minimal := by
  obtain ⟨-, hwf⟩ := decode_eq_ok.mp h
  cases hrow : i.rowProfile with
  | minimal => rfl
  | full => rw [Instr.wf, hrow] at hwf; cases hwf

theorem State.Fetches.withUnread {w : Word} (h : s.Fetches w) : (s.withUnread p d e k n).Fetches w := by
  rw [State.Fetches, State.withUnread_byteAt, State.withUnread_byteAt]
  exact h

/-- A step of a MINIMAL machine that completes does so with other values of what it does not read, under FULL too. -/
theorem step_withUnread (hs : s.cfg.profile = .minimal) (h : step s = .next t) :
    step (s.withUnread p d e k n) = .next (t.withUnread p d e k n) := by
  obtain ⟨w, i, hw, hdecode, hexec⟩ := step_next h
  have hi : i.rowProfile = .minimal := rowProfile_of_decode_minimal (hs ▸ hdecode)
  have hdecode : decode p w = .ok i :=
    encode_of_decodeRow (decode_eq_ok.mp hdecode).1 ▸ decode_encode_of_minimal hi
  exact (step_of_decode (hw.withUnread p d e k n) hdecode).trans (exec_withUnread p d e k n hi hexec)

/-- What a step of a MINIMAL machine does not read it does not write: the values of the state before are themselves
values that `step_withUnread` carries over. -/
theorem step_keeps_unread (hs : s.cfg.profile = .minimal) (h : step s = .next t) :
    t.withUnread s.cfg.profile s.dt s.st s.key s.draws = t := by
  have carried := step_withUnread s.cfg.profile s.dt s.st s.key s.draws hs h
  rw [State.withUnread_self, h] at carried
  exact (Host.Outcome.next.inj carried).symm

end

/-- Settles O51: a completed step by `step_withUnread` at the profile the machine has; and none of the parts is a
ground of a fault. -/
theorem minimalStepIgnoresTimersLatchAndRandom : Obligations.MinimalStepIgnoresTimersLatchAndRandom := by
  intro s d e k n hs
  obtain ⟨t, h⟩ | ⟨f, h⟩ := step_next_or_fault s
  · rw [h, ← State.withUnread_profile, step_withUnread _ d e k n hs h]
    exact congrArg (fun u => Host.Outcome.next (State.setDraws (((u.setDt d).setSt e).setKey k) n))
      (step_keeps_unread hs h)
  · rw [h]
    exact step_fault_congr (s := s) rfl rfl rfl rfl rfl h

/-- Settles O52: `step_withUnread` at FULL, with the values the state has. -/
theorem fullRunsWhatMinimalRuns : Obligations.FullRunsWhatMinimalRuns := by
  intro s t hs h
  rw [← s.withUnread_others, step_withUnread .full s.dt s.st s.key s.draws hs h]
  exact congrArg (fun u => Host.Outcome.next (State.setProfile u .full)) (step_keeps_unread hs h)

end Sys2Proof.Machine
end

section
/-! Instructions by what they leave to the next one: CALL and RET, the random byte, a store and a load, a store to the
next instruction. -/

namespace Sys2Proof.Machine

variable {s : State}

/-! ### CALL then RET (40_control_flow.md R402) -/

/-- Settles O25: the call pushes the return address at SP, and the return pops that entry. -/
theorem callThenReturnComesBack : Obligations.CallThenReturnComesBack := by
  intro s nnn h
  refine ⟨_, _, exec_call h, exec_ret (Nat.succ_pos _), Vector.getElem_set_self .., rfl, fun k hk => ?_⟩
  exact (stack_set_get s.stack h _ k).trans (if_neg (Nat.ne_of_lt hk))

/-! ### The random byte (41_alu.md R464) -/

/-- Settles O31: the effect for a byte is one `setV`, and the byte drawn is one of them. -/
theorem randomByteIsMasked : Obligations.RandomByteIsMasked := fun s x nn =>
  ⟨encodedAs_encode (.rnd x nn), fun r => ⟨s.setV_getV_self x (r &&& nn), rfl, frame_setV_advance ..⟩, rfl⟩

/-! ### FX55 then FX65 (42_index_memory.md R503) -/

/-- Settles O35: a register up to X is read back from the byte it was stored to, and the others are kept by both. -/
theorem storeThenLoadIsIdentityOnRegisters : Obligations.StoreThenLoadIsIdentityOnRegisters := by
  intro s x h
  obtain ⟨-, store, -⟩ := storeWritesRegistersAtI s x
  obtain ⟨t, hstore, stored, -, storeFrame⟩ := store h
  have hi : t.i = s.i := storeFrame.i List.not_mem_nil
  obtain ⟨-, load, -⟩ := loadReadsRegistersAtI t x
  obtain ⟨u, hload, loaded, -, loadFrame⟩ := load (hi ▸ h)
  refine ⟨t, u, hstore, hload, State.v_eq_of_getV fun y => ?_⟩
  by_cases hy : y.toNat ≤ x.toNat
  · rw [loaded y hy, hi, stored y hy]
  · rw [loadFrame.regs y hy, storeFrame.regs y not_false]

/-! ### Code stored at the next pc (20_memory.md R217) -/

/-- After bytes are written from pc + 2 on, the next pc fetches the word of the first two. -/
theorem fetches_of_setBytes_advance {bs : List Byte} {b₀ b₁ : Byte} (hbase : s.base = s.pc.toNat + 2)
    (hrange : s.base + bs.length ≤ memSize) (h₀ : bs[0]? = some b₀) (h₁ : bs[1]? = some b₁) :
    (s.setBytes s.base bs).advance.Fetches (wordOfBytes b₀ b₁) := by
  have hlen : 1 < bs.length := (List.getElem?_eq_some_iff.mp h₁).1
  have hpc : (s.setBytes s.base bs).advance.pc.toNat = s.base := by
    have noWrap : s.pc.toNat + 2 < 2 ^ 16 := hbase ▸ s.i.isLt
    rw [setBytes_advance_pc, BitVec.toNat_add, hbase]
    exact Nat.mod_eq_of_lt noWrap
  rw [State.Fetches, hpc, wordOfBytes_hi, wordOfBytes_lo]
  exact ⟨by omega, (s.setBytes_byteAt_add hrange h₀).symm, (s.setBytes_byteAt_add hrange h₁).symm⟩

/-- The word of two numbers that fit in a byte. -/
theorem wordOfBytes_ofNat {hi lo : Nat} (hhi : hi < 2 ^ 8) (hlo : lo < 2 ^ 8) :
    wordOfBytes (BitVec.ofNat 8 hi) (BitVec.ofNat 8 lo) = BitVec.ofNat 16 (hi * 256 + lo) := by
  apply BitVec.eq_of_toNat_eq
  rw [wordOfBytes, BitVec.toNat_append, BitVec.toNat_ofNat, BitVec.toNat_ofNat, BitVec.toNat_ofNat,
    Nat.mod_eq_of_lt hhi, Nat.mod_eq_of_lt hlo, ← Nat.shiftLeft_add_eq_or_of_lt hlo, Nat.shiftLeft_eq]
  omega

/-- Settles O39: FX55 stores V0 and V1 at pc + 2, FX33 the hundreds and the tens. -/
theorem storedCodeIsFetchedNext : Obligations.StoredCodeIsFetchedNext := by
  refine fun s t x hbase => ⟨fun hx h => ?storeRegs, fun h => ?ldB⟩
  case storeRegs =>
    have hrange := State.ownFault_storeRegs_none.mp (ownFault_of_exec_next h)
    cases (exec_storeRegs hrange).symm.trans h
    exact fetches_of_setBytes_advance hbase (by rw [s.regsThrough_length]; exact hrange)
      (s.regsThrough_getElem x 0x0#4 (Nat.zero_le _)) (s.regsThrough_getElem x 0x1#4 hx)
  case ldB =>
    have hrange := State.ownFault_ldB_none.mp (ownFault_of_exec_next h)
    cases (exec_ldB hrange).symm.trans h
    rw [← wordOfBytes_ofNat (by omega) (by omega)]
    exact fetches_of_setBytes_advance hbase hrange rfl rfl

end Sys2Proof.Machine
end

section
/-! Canonical memory as data (20_memory.md R200, log 7): it is determined by what its cells read as. -/

namespace Sys2Proof.Machine

variable {c : Config} {m : Memory}

/-- A cell that is not listed reads as its reset contents. -/
theorem Memory.get_of_not_listed {a : Nat} (h : ∀ p ∈ m, p.1 ≠ a) :
    m.get c a = c.resetByte a := by
  induction m with
  | nil => rfl
  | cons p m ih =>
    obtain ⟨hp, hm⟩ := List.forall_mem_cons.mp h
    exact (if_neg hp).trans (ih hm)

/-- Where the addresses rise, the cell reads as the byte it is listed with. -/
theorem Memory.get_of_mem {p : Host.Cell} (hm : m.Pairwise fun p q => p.1 < q.1)
    (hp : p ∈ m) : m.get c p.1 = p.2 := by
  induction m with
  | nil => cases hp
  | cons q m ih =>
    obtain ⟨hq, hm⟩ := List.pairwise_cons.mp hm
    obtain rfl | hp := List.mem_cons.mp hp
    · exact if_pos rfl
    · exact (if_neg (hq p hp).ne).trans (ih hm hp)

/-- Canonical memory lists exactly the cells that do not read as their reset contents. -/
theorem Memory.mem_iff (h : m.wf c) (p : Host.Cell) :
    p ∈ m ↔ p.1 < memSize ∧ m.get c p.1 = p.2 ∧ p.2 ≠ c.resetByte p.1 := by
  obtain ⟨hm, hcells⟩ := h
  constructor
  · intro hp
    obtain ⟨hlt, hne⟩ := hcells p hp
    exact ⟨hlt, Memory.get_of_mem hm hp, hne⟩
  · rintro ⟨-, hget, hne⟩
    obtain ⟨q, hq, haddr⟩ : ∃ q ∈ m, q.1 = p.1 := by
      by_contra hnone
      push Not at hnone
      exact hne (hget.symm.trans (Memory.get_of_not_listed hnone))
    have hbyte : q.2 = p.2 := (Memory.get_of_mem hm hq).symm.trans (haddr ▸ hget)
    exact Prod.ext haddr hbyte ▸ hq

/-- Settles O40: both list the same cells, in rising order. -/
theorem equalCellsAreEqualMemory : Obligations.EqualCellsAreEqualMemory := by
  intro c m m' h h' hget
  have same (p : Host.Cell) : p ∈ m ↔ p ∈ m' := by
    rw [Memory.mem_iff h, Memory.mem_iff h']
    exact and_congr_right fun hlt => by rw [hget p.1 hlt]
  exact List.Pairwise.eq_of_mem_iff h.1 h'.1 same

end Sys2Proof.Machine
end

section
/-! The same sprite drawn twice (43_display.md R556). -/

namespace Sys2Proof.Machine

variable {s t : State} {x y : Reg} {n : Nibble}

/-- What a sprite covers depends on its origin, on I, on memory and on SPRITE_XWRAP. -/
theorem State.covers_congr {idx : Nat} (hx : t.spriteX x = s.spriteX x)
    (hy : t.spriteY y = s.spriteY y) (hi : t.i = s.i) (hmem : ∀ a, t.byteAt a = s.byteAt a) (hcfg : t.cfg = s.cfg) :
    t.Covers x y n idx ↔ s.Covers x y n idx := by
  rw [State.spriteX, State.spriteX] at hx
  rw [State.spriteY, State.spriteY] at hy
  simp only [State.Covers, hx, hy, hi, hmem, hcfg]

/-- A draw that completes inverts the covered pixels and no other. -/
theorem exec_drw_pixels (h : exec (.drw x y n) s = .next t) :
    (∀ idx, s.Covers x y n idx → t.fb.get idx = !s.fb.get idx) ∧
      ∀ idx, ¬s.Covers x y n idx → t.fb.get idx = s.fb.get idx := by
  cases (exec_drw (State.ownFault_drw_none.mp (ownFault_of_exec_next h))).symm.trans h
  exact ⟨fun _ => s.drawingOf_get_of_covers x y n, fun _ => s.drawingOf_get_of_not_covers x y n⟩

/-- A draw that completes leaves VF 1 exactly when it covered a pixel that was on. -/
theorem exec_drw_vf (h : exec (.drw x y n) s = .next t) :
    t.getV vf = 0x01#8 ↔ ∃ idx, s.Covers x y n idx ∧ s.fb.get idx = true := by
  cases (exec_drw (State.ownFault_drw_none.mp (ownFault_of_exec_next h))).symm.trans h
  have flag : ∀ b, flagByte b = 0x01#8 ↔ b = true := by decide
  rw [← s.drawingOf_collision x y n, ← flag]
  exact Eq.congr_left (State.setV_getV_self ..)

/-- Settles O43: both draws cover the same pixels, so the second inverts them back, and it collides with those that the
first turned on. -/
theorem drawingTwiceRestoresTheScreen : Obligations.DrawingTwiceRestoresTheScreen := by
  intro s t x y n h hx hy
  have frame := exec_frame h
  have hi : t.i = s.i := frame.i (by simp [writtenParts])
  obtain ⟨hsp, -⟩ : t.sp = s.sp ∧ t.stack = s.stack := frame.stack (by simp [writtenParts])
  have same (idx : Nat) : t.Covers x y n idx ↔ s.Covers x y n idx := State.covers_congr hx hy hi
    (fun a => frame.mem a (Nat.lt_or_ge a s.base)) frame.cfg
  obtain ⟨u, hu⟩ : ∃ u, exec (.drw x y n) t = .next u :=
    exec_of_ownFault_none ((State.ownFault_congr hsp hi _).trans (ownFault_of_exec_next h))
  obtain ⟨inverted, kept⟩ := exec_drw_pixels h
  obtain ⟨invertedBack, keptAgain⟩ := exec_drw_pixels hu
  refine ⟨u, hu, Framebuffer.ext_get fun idx _ => ?pixel, (exec_drw_vf hu).trans (exists_congr fun idx => ?vf)⟩
  case pixel =>
    by_cases hc : s.Covers x y n idx
    · rw [invertedBack idx ((same idx).mpr hc), inverted idx hc, Bool.not_not]
    · rw [keptAgain idx (mt (same idx).mp hc), kept idx hc]
  case vf =>
    rw [same idx]
    constructor
    · rintro ⟨hc, hon⟩
      rw [inverted idx hc, Bool.not_eq_true'] at hon
      exact ⟨hon, (inverted idx hc).trans (by rw [hon]; rfl)⟩
    · rintro ⟨hoff, hon⟩
      refine ⟨by_contra fun hc => ?_, hon⟩
      rw [kept idx hc, hoff] at hon
      cases hon

end Sys2Proof.Machine
end

section
/-! Assembly (30_encoding.md R310, R311, in the token form of log 17): every instruction has a line, and a
line that assembles has its operands in their ranges. -/

namespace Sys2Proof.Machine

/-! ### A line for every instruction -/

section
variable (x y : Reg) (nn : Byte) (nnn : Addr12)

theorem asmX_toNat (f : Reg → Instr) : asmX x.toNat f = some (f x) := by
  simp [asmX, regInRange, x.isLt]

theorem asmXY_toNat (f : Reg → Reg → Instr) : asmXY x.toNat y.toNat f = some (f x y) := by
  simp [asmXY, regInRange, x.isLt, y.isLt]

theorem asmXNN_toNat (f : Reg → Byte → Instr) : asmXNN x.toNat nn.toNat f = some (f x nn) := by
  simp [asmXNN, regInRange, nnInRange, x.isLt, nn.isLt]

theorem asmNNN_toNat (f : Addr12 → Instr) : asmNNN nnn.toNat f = some (f nnn) := by
  simp [asmNNN, nnnInRange, nnn.isLt]

end

/-- A register as an operand. -/
def Operand.ofReg (x : Reg) : Operand := .v x.toNat

/-- A field as an operand. -/
def Operand.ofField {n : Nat} (a : BitVec n) : Operand := .num a.toNat

/-- The row of R310 an instruction is written by. -/
def asmLineOf : Instr → Mnemonic × List Operand
  | .cls => (.CLS, [])
  | .ret => (.RET, [])
  | .jp nnn => (.JP, [.ofField nnn])
  | .call nnn => (.CALL, [.ofField nnn])
  | .seImm x nn => (.SE, [.ofReg x, .ofField nn])
  | .sneImm x nn => (.SNE, [.ofReg x, .ofField nn])
  | .seReg x y => (.SE, [.ofReg x, .ofReg y])
  | .ldImm x nn => (.LD, [.ofReg x, .ofField nn])
  | .addImm x nn => (.ADD, [.ofReg x, .ofField nn])
  | .ldReg x y => (.LD, [.ofReg x, .ofReg y])
  | .orReg x y => (.OR, [.ofReg x, .ofReg y])
  | .andReg x y => (.AND, [.ofReg x, .ofReg y])
  | .xorReg x y => (.XOR, [.ofReg x, .ofReg y])
  | .addReg x y => (.ADD, [.ofReg x, .ofReg y])
  | .subReg x y => (.SUB, [.ofReg x, .ofReg y])
  | .shr x y => (.SHR, [.ofReg x, .ofReg y])
  | .subn x y => (.SUBN, [.ofReg x, .ofReg y])
  | .shl x y => (.SHL, [.ofReg x, .ofReg y])
  | .sneReg x y => (.SNE, [.ofReg x, .ofReg y])
  | .ldI nnn => (.LD, [.i, .ofField nnn])
  | .jpV0 nnn => (.JP, [.v 0, .ofField nnn])
  | .rnd x nn => (.RND, [.ofReg x, .ofField nn])
  | .drw x y n => (.DRW, [.ofReg x, .ofReg y, .ofField n])
  | .skp x => (.SKP, [.ofReg x])
  | .sknp x => (.SKNP, [.ofReg x])
  | .ldVxDt x => (.LD, [.ofReg x, .dt])
  | .ldVxK x => (.LD, [.ofReg x, .k])
  | .ldDtVx x => (.LD, [.dt, .ofReg x])
  | .ldStVx x => (.LD, [.st, .ofReg x])
  | .addI x => (.ADD, [.i, .ofReg x])
  | .ldF x => (.LD, [.f, .ofReg x])
  | .ldB x => (.LD, [.b, .ofReg x])
  | .storeRegs x => (.LD, [.atI, .ofReg x])
  | .loadRegs x => (.LD, [.ofReg x, .atI])

/-- The line of an instruction assembles to it: its operands are fields, so they are in range. -/
theorem assembleInstr_asmLineOf (i : Instr) : assembleInstr (asmLineOf i).1 (asmLineOf i).2 = some i := by
  cases i with
  | cls | ret => rfl
  | jp nnn | call nnn | ldI nnn | jpV0 nnn => exact asmNNN_toNat nnn _
  | seImm x nn | sneImm x nn | ldImm x nn | addImm x nn | rnd x nn => exact asmXNN_toNat x nn _
  | seReg x y | sneReg x y | ldReg x y | orReg x y | andReg x y | xorReg x y | addReg x y | subReg x y | shr x y
  | subn x y | shl x y => exact asmXY_toNat x y _
  | drw x y n =>
    have hn : nInRange n.toNat = true := decide_eq_true n.isLt
    refine (if_pos hn).trans ((asmXY_toNat x y _).trans ?_)
    rw [BitVec.ofNat_toNat, BitVec.setWidth_eq]
  | skp x | sknp x | ldVxDt x | ldVxK x | ldDtVx x | ldStVx x | addI x | ldF x | ldB x | storeRegs x | loadRegs x =>
    exact asmX_toNat x _

/-- Settles O58: the line is `asmLineOf`. -/
theorem everyInstructionHasAsmSyntax : Obligations.EveryInstructionHasAsmSyntax := fun i =>
  ⟨_, _, assembleInstr_asmLineOf i⟩

/-! ### The ranges of the operands -/

/-- An operand in range, where numbers are below `bound`. -/
def Operand.inRange (bound : Nat) : Operand → Prop
  | .v x => x < 16
  | .num n => n < bound
  | .i | .atI | .dt | .st | .k | .f | .b => True

/-- The operands V0 to VF. -/
def Operand.isReg : Operand → Bool
  | .v _ => true
  | .num _ | .i | .atI | .dt | .st | .k | .f | .b => false

section
variable {x y n : Nat} {i : Instr}

theorem inRange_of_asmX {f : Reg → Instr} (h : asmX x f = some i) : x < 16 :=
  of_decide_eq_true (Option.ite_none_right_eq_some.mp h).1

theorem inRange_of_asmXY {f : Reg → Reg → Instr} (h : asmXY x y f = some i) : x < 16 ∧ y < 16 :=
  (Bool.and_eq_true_iff.mp (Option.ite_none_right_eq_some.mp h).1).imp of_decide_eq_true of_decide_eq_true

theorem inRange_of_asmXNN {f : Reg → Byte → Instr} (h : asmXNN x n f = some i) : x < 16 ∧ n < 0x100 :=
  (Bool.and_eq_true_iff.mp (Option.ite_none_right_eq_some.mp h).1).imp of_decide_eq_true of_decide_eq_true

theorem inRange_of_asmNNN {f : Addr12 → Instr} (h : asmNNN n f = some i) : n < 0x1000 :=
  of_decide_eq_true (Option.ite_none_right_eq_some.mp h).1

end

/-- The bound on the numbers of a line: 0x10 for DRW, 0x100 beside a register, and 0x1000 for JP or without one. -/
def numBound (m : Mnemonic) (ops : List Operand) : Nat :=
  if m = .DRW then 0x10 else if m ≠ .JP ∧ ops.any Operand.isReg then 0x100 else 0x1000

theorem numBound_drw (ops : List Operand) : numBound .DRW ops = 0x10 := if_pos rfl

theorem numBound_le_nnn (m : Mnemonic) (ops : List Operand) : numBound m ops ≤ 0x1000 := by
  unfold numBound
  split_ifs <;> decide

theorem numBound_le_nn {m : Mnemonic} {ops : List Operand} {x : Nat} (hx : .v x ∈ ops) (hm : m ≠ .JP) :
    numBound m ops ≤ 0x100 := by
  have beside : m ≠ .JP ∧ ops.any Operand.isReg = true := ⟨hm, List.any_eq_true.mpr ⟨_, hx, rfl⟩⟩
  rw [numBound, if_pos beside]
  split_ifs <;> decide

/-- A line that assembles has every operand in range. -/
theorem inRange_of_assembleInstr {m : Mnemonic} {ops : List Operand} {i : Instr} (h : assembleInstr m ops = some i) :
    ∀ o ∈ ops, o.inRange (numBound m ops) := by
  unfold assembleInstr at h
  split at h
  -- no operand
  case h_1 | h_2 => exact List.forall_mem_nil _
  -- an address
  case h_3 | h_4 | h_5 | h_12 => simpa [Operand.inRange, Operand.isReg, numBound] using inRange_of_asmNNN h
  -- a register and a byte
  case h_6 | h_8 | h_10 | h_21 | h_33 =>
    simpa [Operand.inRange, Operand.isReg, numBound] using inRange_of_asmXNN h
  -- two registers, the second of a shift also left out
  case h_7 | h_9 | h_11 | h_22 | h_24 | h_25 | h_26 | h_27 | h_28 | h_29 | h_30 | h_31 | h_32 =>
    simpa [Operand.inRange] using inRange_of_asmXY h
  -- one register, beside a fixed name or alone
  case h_13 | h_14 | h_15 | h_16 | h_17 | h_18 | h_19 | h_20 | h_23 | h_35 | h_36 =>
    simpa [Operand.inRange] using inRange_of_asmX h
  -- DRW
  case h_34 =>
    obtain ⟨hn, hxy⟩ := Option.ite_none_right_eq_some.mp h
    obtain ⟨hx, hy⟩ := inRange_of_asmXY hxy
    simp [Operand.inRange, numBound, hx, hy, of_decide_eq_true hn]
  -- no line of R310
  case h_37 => cases h

section
variable {m : Mnemonic} {ops : List Operand}

theorem assembleInstr_none_of_num {n bound : Nat} (hn : .num n ∈ ops) (hbound : numBound m ops ≤ bound)
    (hle : bound ≤ n) : assembleInstr m ops = none := by
  by_contra hsome
  obtain ⟨i, h⟩ := Option.ne_none_iff_exists'.mp hsome
  have hlt : n < numBound m ops := inRange_of_assembleInstr h _ hn
  omega

theorem assembleInstr_none_of_reg {x : Nat} (hx : .v x ∈ ops) (hle : 16 ≤ x) : assembleInstr m ops = none := by
  by_contra hsome
  obtain ⟨i, h⟩ := Option.ne_none_iff_exists'.mp hsome
  have hlt : x < 16 := inRange_of_assembleInstr h _ hx
  omega

end

/-! ### The bytes of a line -/

/-- A mnemonic line is the two bytes of its instruction. -/
theorem assembleLine_op {m : Mnemonic} {ops : List Operand} {bytes : List Byte}
    (h : assembleLine (.op m ops) = some bytes) : ∃ i, assembleInstr m ops = some i ∧ encodeBytes i = bytes :=
  Option.map_eq_some_iff.mp h

/-- DB emits the bytes it is given. -/
theorem assembleLine_db_toNat (bytes : List Byte) : assembleLine (.db (bytes.map BitVec.toNat)) = some bytes := by
  have inRange : (bytes.map BitVec.toNat).all nnInRange = true := by
    rw [List.all_map, List.all_eq_true]
    exact fun b _ => decide_eq_true b.isLt
  have same : (bytes.map BitVec.toNat).map (BitVec.ofNat 8) = bytes := by
    simp [Function.comp_def]
  rw [assembleLine, if_pos inRange, same]

/-- DB refuses a number that is no byte. -/
theorem assembleLine_db_none {bytes : List Nat} {n : Nat} (hn : n ∈ bytes) (hle : 0x100 ≤ n) :
    assembleLine (.db bytes) = none :=
  if_neg fun hall => hle.not_gt (of_decide_eq_true (List.all_eq_true.mp hall n hn))

/-- Settles O57: a line that assembles is its instruction's encoding, and has its operands in range. -/
theorem asmLineIsOneWord : Obligations.AsmLineIsOneWord := by
  refine ⟨fun m ops bytes h => ?word, fun m ops n hn => assembleInstr_none_of_num hn (numBound_le_nnn m ops),
    fun m ops x n hx hn hle hm => assembleInstr_none_of_num hn (numBound_le_nn hx hm) hle,
    fun ops n hn => assembleInstr_none_of_num hn (numBound_drw ops).le, fun m ops x => assembleInstr_none_of_reg,
    assembleLine_db_toNat, fun bytes ⟨n, hn, hle⟩ => assembleLine_db_none hn hle⟩
  obtain ⟨i, hi, rfl⟩ := assembleLine_op h
  exact ⟨rfl, i, hi, decodeBytes_encodeBytes i⟩

end Sys2Proof.Machine
end
